-- ==== Sys2Proof/Word.lean ====
section
/-! DEFINITION. The two bit-vector widths of the CRC32 generator: the 32-bit word of `S`, `DOUT`, `din` and the table
(R3, R7, R9, R16) and the 8-bit byte of a message, a command word and a table index (R3, R16, R36). -/

namespace Sys2Proof

/-- A 32-bit value: the CRC state, an operand word, a table entry (R3: `W` = 32). -/
abbrev Word := BitVec 32

/-- An 8-bit value: one message element, a command word, a table index (R3: `BYTE` = 8). -/
abbrev Byte := BitVec 8

end Sys2Proof
end

