-- ==== Sys2Proof/Config.lean ====
section
/-! DEFINITION. What is fixed for the block: the parameters of R3, which the spec gives, and the constants without a body
that stand for what the spec leaves open (`CMD_LATENCY`, R6; the values of R73 and R76). Nothing in Lean can learn the
value of a constant without a body, so a claim holds whatever it is. -/

namespace Sys2Proof.Config

/-- `POLY`, the reflected generator polynomial (R3). -/
def poly : Word := 0xEDB88320#32

/-- `INIT`, the running state at the start of a fresh computation (R3). -/
def initState : Word := 0xFFFFFFFF#32

/-- `XOROUT`, XORed into the running state to give the finalized value (R3). -/
def xorOut : Word := 0xFFFFFFFF#32

/-- `NTAB`, the number of table entries (R3). -/
def tableSize : Nat := 256

/-- `CMD_LATENCY(op)`, R6: the number of cycles `cmd_ready` stays low after a command of opcode `op` is accepted. The
spec leaves it OPEN as a parameter per opcode (D19); assumption log 3. -/
opaque cmdLatency : BitVec 4 → Nat

/-- The value the port `dout` shows in cycle `tick` when the spec lets it show any value (R76, R49; R73 before the first
reset); assumption log 4. -/
opaque freeDoutPort : Nat → Word

/-- The value the port `err` shows in cycle `tick` when the spec lets it show any value (R76, R49; R73 before the first
reset); assumption log 4. -/
opaque freeErrPort : Nat → BitVec 1

/-- The unspecified contents of `S` in cycle `tick` before the first reset (R73); assumption log 5. -/
opaque unresetS : Nat → Word

/-- The unspecified contents of `DOUT` in cycle `tick` before the first reset (R73); assumption log 5. -/
opaque unresetDout : Nat → Word

/-- The unspecified contents of `ERR` in cycle `tick` before the first reset (R73); assumption log 5. -/
opaque unresetErr : Nat → BitVec 1

/-- The unspecified value of `cmd_ready` in cycle `tick` before the first reset (R73); assumption log 5. -/
opaque unresetReady : Nat → Bool

end Sys2Proof.Config
end

