-- ==== Sys2Proof/Machine/State.lean ====
section
/-! DEFINITION. The state of the block: the three registers of R12, where the block stands between commands and after
reset (what fixes `cmd_ready`, R38, R71, R72, R75), and two fields of the model's own: what the host will drive next and a
cycle counter that names free values. The table `T` is constant (R11) and is no field: `Machine/Table.lean` holds it.
There is no program counter, no memory, no mode and no saved exception state (R12, R13, R67, R68). -/

namespace Sys2Proof.Machine

/-- The levels of the input ports that one rising edge of `clk` samples (R36, R37). -/
structure PortIn where
  /-- `rst`, synchronous reset, active high. -/
  rst : Bool
  /-- `cmd_valid`: the host presents a command. -/
  cmdValid : Bool
  /-- `cmd`, the command word. -/
  cmd : Byte
  /-- `din`, the operand word. -/
  din : Word
deriving DecidableEq, Repr

/-- One thing the outside world does to the block. -/
inductive HostEvent where
  /-- A rising edge of `clk` with these input levels. -/
  | edge (p : PortIn)
  /-- The platform gates the clock or removes power for a time, after which nothing is promised of the state (R69);
  assumption log 6. -/
  | powerGap
deriving DecidableEq, Repr

/-- Where the block stands in the handshake. -/
inductive Stage where
  /-- No reset since power-up or since a power gap: nothing is specified (R73). -/
  | beforeReset
  /-- The cycle that follows an edge with `rst = 1`: `cmd_ready = 0` (R71). -/
  | afterReset
  /-- Running; `cmd_ready` stays low for `busy` more cycles, this one included (R75). -/
  | running (busy : Nat)
deriving DecidableEq, Repr

/-- The block. `regS`, `regDout`, `regErr` and `stage` are the spec's state; `inputs` and `tick` are the model's own. -/
structure State where
  /-- `S`, the running CRC state (R7). -/
  regS : Word
  /-- `DOUT`, the output register (R9). -/
  regDout : Word
  /-- `ERR`, the sticky illegal-command bit (R10). -/
  regErr : BitVec 1
  /-- Where the block stands in the handshake: what fixes `cmd_ready` (R71, R72, R73, R75). -/
  stage : Stage
  /-- What the host will do at the next steps, the next one first. Once it is empty the host drives idle edges
  (assumption logs 1 and 2). -/
  inputs : List HostEvent
  /-- Counts the steps, so that each cycle's free values are its own (assumption log 8). -/
  tick : Nat
deriving DecidableEq, Repr

/-- The ways the block can stop with a fault: none. No legal command fails (R62), an illegal command completes through the
normal handshake (R63), and there is no trap (R67). -/
inductive Fault
deriving DecidableEq, Repr

/-- The ways the model can refuse a command. Every command has its meaning, so no step gives this answer. -/
inductive Refusal where
  /-- A command whose meaning is not written yet; raised only by an arm of `exec`, and safe: the run stops. No arm raises
  it. -/
  | notModelled (mnemonic : String)
deriving DecidableEq, Repr

/-- The block right after an edge with `rst = 1`: the values of R14 and R71, `cmd_ready = 0` in this cycle (R71), nothing
yet driven by the host and the model's counter at 0 (assumption log 8). -/
def State.reset : State where
  regS := Config.initState
  regDout := 0#32
  regErr := 0#1
  stage := .afterReset
  inputs := []
  tick := 0

end Sys2Proof.Machine
end

