-- ==== Sys2Proof/Machine/Flags.lean ====
section
/-! DEFINITION. The block's one status bit (R10, R12: there are no flags or condition codes). No command computes a flag:
an illegal command sets `ERR`, and reset clears it. -/

namespace Sys2Proof.Machine

/-- `ERR <- 1` (R10, R63): the only way a command changes `ERR`. It is sticky: setting it again leaves it 1 (R64). -/
def State.setErr (s : State) : State := { s with regErr := 1#1 }

end Sys2Proof.Machine
end

