-- ==== Sys2Proof/Machine/Ops.lean ====
section
/-! DEFINITION. The shared operations: the register writes, the CRC arithmetic of R53 and R59, the register part of reset,
and the one exception, IllegalCommand (R63). There is no return from it beside it: the block has no trap mechanism, saves
nothing and has no return command (R67). -/

namespace Sys2Proof.Machine

/-- `S <- v`. -/
def State.setS (s : State) (v : Word) : State := { s with regS := v }

/-- `DOUT <- v`. -/
def State.setDout (s : State) (v : Word) : State := { s with regDout := v }

/-- `CRCBYTE(s, b)` of R53: the logical shift right by 8 and its mask, XORed with the table entry at
`(s ^ zext_32(b)) & 0xFF`. -/
def crcByte (s : Word) (b : Byte) : Word :=
  ((s >>> 8) &&& 0x00FFFFFF#32) ^^^ tabRead (((s ^^^ b.setWidth 32) &&& 0xFF#32).setWidth 8)

/-- `U(s, m)` of R56: the bytes of `m` folded into the running state `s`, the first byte first (R20). -/
def crcUpdate : Word → List Byte → Word
  | s, [] => s
  | s, b :: m => crcUpdate (crcByte s b) m

/-- `S ^ XOROUT`, the finalized value of a running state (R59). -/
def finalize (s : Word) : Word := s ^^^ Config.xorOut

/-- `crc32(m) = U(INIT, m) ^ XOROUT`, the CRC-32 of a message (R61). -/
def crc32 (m : List Byte) : Word := finalize (crcUpdate Config.initState m)

/-- IllegalCommand, R63: `ERR <- 1`; `S`, `DOUT` and everything else unchanged, nothing saved (R67). -/
def raiseIllegalCommand (s : State) : State := s.setErr

/-- The register values of reset (R14, R71). -/
def State.resetRegs (s : State) : State :=
  { s with regS := Config.initState, regDout := 0#32, regErr := 0#1 }

/-- The register values while nothing is specified (R73, R69): free values of the current cycle (assumption log 5). -/
def State.freeRegs (s : State) : State :=
  { s with regS := Config.unresetS s.tick, regDout := Config.unresetDout s.tick, regErr := Config.unresetErr s.tick }

end Sys2Proof.Machine
end

