-- ==== Sys2Proof/Machine/Control.lean ====
section
/-! DEFINITION. The state-control commands: NOP, INIT and LOAD (40_control.md, R50 to R52). -/

namespace Sys2Proof.Machine

/-- NOP, R50: no state changes. -/
def execNop (s : State) : Host.Outcome State Fault Refusal := .next s

/-- INIT, R51: `S <- INIT`. `DOUT` and `ERR` stay, an `ERR` already set included (R64). -/
def execInit (s : State) : Host.Outcome State Fault Refusal := .next (s.setS Config.initState)

/-- LOAD, R52: `S <- v`. Every value is accepted, a finalized value too (R79). -/
def execLoad (v : Word) (s : State) : Host.Outcome State Fault Refusal := .next (s.setS v)

end Sys2Proof.Machine
end

