-- ==== Sys2Proof/Machine/Readout.lean ====
section
/-! DEFINITION. The readout commands: RDSTATE, FINAL and RDTAB (42_readout.md, R58 to R60). Each writes `DOUT` only. -/

namespace Sys2Proof.Machine

/-- RDSTATE, R58: `DOUT <- S`. -/
def execRdstate (s : State) : Host.Outcome State Fault Refusal := .next (s.setDout s.regS)

/-- FINAL, R59: `DOUT <- S ^ XOROUT`; `S` keeps the running state (R8). -/
def execFinal (s : State) : Host.Outcome State Fault Refusal := .next (s.setDout (finalize s.regS))

/-- RDTAB, R60: `DOUT <- T[i]`. -/
def execRdtab (i : Byte) (s : State) : Host.Outcome State Fault Refusal := .next (s.setDout (tabRead i))

end Sys2Proof.Machine
end

