-- ==== Sys2Proof/Syntax.lean ====
section
/-! DEFINITION. The commands of the block: one constructor per row of the opcode table (R42), each with the operand R44
gives it and no other. -/

namespace Sys2Proof

/-- A legal command with its operand assembled (R42, R44). -/
inductive Instr where
  /-- NOP, R50: no operand. -/
  | nop
  /-- INIT, R51: no operand. -/
  | init
  /-- LOAD, R52: `v` is the new running state, `din[31:0]`. -/
  | load (v : Word)
  /-- UPDATE, R54: `n` is the byte count minus one, `cmd[1:0]`. `v` holds the `n+1` message bytes, the first in bits 7..0.
  The decoder leaves 0 in the bits of `v` above byte `n`, which R45 says are ignored (assumption log 9). -/
  | update (n : BitVec 2) (v : Word)
  /-- RDSTATE, R58: no operand. -/
  | rdstate
  /-- FINAL, R59: no operand. -/
  | final
  /-- RDTAB, R60: `i` is the table index, `din[7:0]`. -/
  | rdtab (i : Byte)
deriving DecidableEq, Repr

end Sys2Proof
end

