-- ==== Sys2Proof/WellFormed.lean ====
section
/-! DEFINITION. When a command term is one that the port can carry and the assembler writes: unused operand bits zero
(R45, R47). Only UPDATE has operand bits that depend on another field. -/

namespace Sys2Proof

/-- A command's operand fits the bits R44 gives it: `UPDATE.k #v` with `v` no wider than `8k` bits, `k = n+1` (R47). Every
other operand fills its bits exactly. -/
def Instr.wf : Instr → Bool
  | .nop => true
  | .init => true
  | .load _ => true
  | .update n v => decide (v.toNat < 2 ^ (8 * (n.toNat + 1)))
  | .rdstate => true
  | .final => true
  | .rdtab _ => true

end Sys2Proof
end

