-- ==== Sys2Proof/Decode.lean ====
section
/-! DEFINITION. The command transaction (R40): the fields of the command word (R41), which words are legal (R43), the
decoder, total on all 256 command words and all operand words, the encoder written from the same table (R42, R47), and the
host's numbering of a table word. -/

namespace Sys2Proof

/-- `op = cmd[7:4]` (R41). -/
def opField (c : Byte) : BitVec 4 := c.extractLsb' 4 4

/-- `rsv = cmd[3:2]`, which must be 00 (R41). -/
def rsvField (c : Byte) : BitVec 2 := c.extractLsb' 2 2

/-- `n = cmd[1:0]`: UPDATE's byte count minus one. Every other opcode needs 00 here (R41). -/
def countField (c : Byte) : BitVec 2 := c.extractLsb' 0 2

/-- `legal(c)` of R43, in its own three clauses. -/
def legal (c : Byte) : Bool :=
  decide ((opField c).toNat ≤ 6) && (rsvField c == 0#2) && (opField c == 3#4 || countField c == 0#2)

/-- Why a command word is illegal: the three parts of the reserved space of R46. The block does not record which (R63). -/
inductive IllegalReason where
  /-- `op` is `0x7` to `0xF`. -/
  | reservedOpcode
  /-- `rsv` is not 00. -/
  | reservedBits
  /-- `n` is not 00 and the opcode is not UPDATE. -/
  | countBits
deriving DecidableEq, Repr

/-- What the decoder answers: a command, or that the word is illegal and why. -/
inductive Decoded where
  | instr (i : Instr)
  | illegal (why : IllegalReason)
deriving DecidableEq, Repr

/-- The bytes 0 to `n` of `d` with the bits above them zero: what UPDATE keeps of `din` (R44, R45). -/
def lowBytes (n : BitVec 2) (d : Word) : Word := BitVec.ofNat 32 (d.toNat % 2 ^ (8 * (n.toNat + 1)))

/-- The command of a transaction (R42), with its operand assembled as R44 says. The command is read from `c` alone (R40).
Where a word is reserved for several reasons, the opcode is named first, then `rsv`, then `n` (assumption log 10). -/
def decode (c : Byte) (d : Word) : Decoded :=
  if 6 < (opField c).toNat then .illegal .reservedOpcode
  else if rsvField c ≠ 0#2 then .illegal .reservedBits
  else if opField c ≠ 3#4 ∧ countField c ≠ 0#2 then .illegal .countBits
  else match (opField c).toNat with
    | 0 => .instr .nop
    | 1 => .instr .init
    | 2 => .instr (.load d)
    | 3 => .instr (.update (countField c) (lowBytes (countField c) d))
    | 4 => .instr .rdstate
    | 5 => .instr .final
    | 6 => .instr (.rdtab (d.extractLsb' 0 8))
    | _ => .illegal .reservedOpcode

/-- The transaction of a command: `(cmd, din)` as the table of R47 lists it, unused operand bits zero. UPDATE's command
word is `0x30 | n` (R54). -/
def encode : Instr → Byte × Word
  | .nop => (0x00#8, 0#32)
  | .init => (0x10#8, 0#32)
  | .load v => (0x20#8, v)
  | .update n v => (0x30#8 ||| n.setWidth 8, v)
  | .rdstate => (0x40#8, 0#32)
  | .final => (0x50#8, 0#32)
  | .rdtab i => (0x60#8, i.setWidth 32)

/-- How many of the low bits of `din` a command word uses (R45): all 32 for LOAD, `8(n+1)` for UPDATE, 8 for RDTAB, none
for NOP, INIT, RDSTATE, FINAL and for every illegal word. -/
def usedDinBits (c : Byte) : Nat :=
  if legal c = false then 0
  else if opField c = 2#4 then 32
  else if opField c = 3#4 then 8 * ((countField c).toNat + 1)
  else if opField c = 6#4 then 8
  else 0

/-- The command word in the low 8 bits of a table word of `nbits` bits (assumption log 7). -/
def tableWordCmd (nbits w : Nat) : Byte := BitVec.ofNat 8 (w % 2 ^ nbits)

/-- The operand word in the bits above the command word, zero where the table gives no bits (assumption log 7). -/
def tableWordDin (nbits w : Nat) : Word := BitVec.ofNat 32 (w % 2 ^ nbits / 256)

/-- The command the decoder reads from a transaction numbered as the opcode table numbers it: `cmd` in bits 7..0 and
`din` in bits 39..8 (assumption log 7). -/
def decodeTableWord (nbits w : Nat) : Option Instr :=
  match decode (tableWordCmd nbits w) (tableWordDin nbits w) with
  | .instr i => some i
  | .illegal _ => none

end Sys2Proof
end

