-- ==== Sys2Proof/Machine/Operands.lean ====
section
/-! DEFINITION. Operand assembly from the operand word (R44, R22): the bytes of UPDATE, first byte lowest, and the packing
of bytes into an operand word that undoes it. LOAD's operand is the whole word and RDTAB's the low byte, which the decoder
takes. -/

namespace Sys2Proof.Machine

/-- `byte_k(v) = v[8k+7:8k]` (00_scope.md notation, R44). -/
def byteOf (k : Nat) (v : Word) : Byte := v.extractLsb' (8 * k) 8

/-- The `n+1` message bytes of UPDATE, in the order they are folded: `v[7:0]` first (R22, R44). -/
def updateBytes (n : BitVec 2) (v : Word) : List Byte := (List.range (n.toNat + 1)).map (byteOf · v)

/-- `b_0 | b_1 << 8 | b_2 << 16 | …`: bytes packed little-endian into one word (R23, R48). -/
def packBytes : List Byte → Word
  | [] => 0#32
  | b :: rest => b.setWidth 32 ||| (packBytes rest <<< 8)

/-- A 32-bit value as the four bytes of its little-endian serialization (R22, R32). -/
def le32 (v : Word) : List Byte := [byteOf 0 v, byteOf 1 v, byteOf 2 v, byteOf 3 v]

/-- A 16-bit value as the two bytes of its little-endian serialization (R32). -/
def le16 (v : BitVec 16) : List Byte := [v.extractLsb' 0 8, v.extractLsb' 8 8]

end Sys2Proof.Machine
end

