-- ==== Sys2Proof/Machine/Update.lean ====
section
/-! DEFINITION. The update command: UPDATE of 1 to 4 bytes (41_update.md, R54). -/

namespace Sys2Proof.Machine

/-- UPDATE, R54: the `n+1` low bytes of `v` are folded into `S`, `v[7:0]` first, in one write. The bytes of `v` above byte
`n` are ignored (R45). -/
def execUpdate (n : BitVec 2) (v : Word) (s : State) : Host.Outcome State Fault Refusal :=
  .next (s.setS (crcUpdate s.regS (updateBytes n v)))

end Sys2Proof.Machine
end

