-- ==== Sys2Proof/Machine/Dispatch.lean ====
section
/-! DEFINITION. The effect of each legal command on `S`, `DOUT` and `ERR` (R42, R63: execute the rule of the opcode). -/

namespace Sys2Proof.Machine

/-- The effect of a legal command, one arm per row of the opcode table (R42). -/
def exec (i : Instr) (s : State) : Host.Outcome State Fault Refusal :=
  match i with
  | .nop => Sys2Proof.Machine.execNop s
  | .init => Sys2Proof.Machine.execInit s
  | .load v => Sys2Proof.Machine.execLoad v s
  | .update n v => Sys2Proof.Machine.execUpdate n v s
  | .rdstate => Sys2Proof.Machine.execRdstate s
  | .final => Sys2Proof.Machine.execFinal s
  | .rdtab idx => Sys2Proof.Machine.execRdtab idx s

end Sys2Proof.Machine
end

