-- ==== Sys2Proof/Machine/Handshake.lean ====
section
/-! DEFINITION. The port: which edge is next, `cmd_ready`, when a command is accepted (R38), what the output ports show
(R49, R76), and what each kind of edge other than an acceptance does (R39, R71 to R73, R75). -/

namespace Sys2Proof.Machine

/-- An edge at which the host presents nothing (`rst = 0`, `cmd_valid = 0`); `cmd` and `din` are then ignored (R39). -/
def PortIn.idle : PortIn where
  rst := false
  cmdValid := false
  cmd := 0#8
  din := 0#32

/-- An edge at which the host presents the command word `c` with the operand word `d` (R38). -/
def PortIn.present (c : Byte) (d : Word) : PortIn where
  rst := false
  cmdValid := true
  cmd := c
  din := d

/-- What the host does at the next step: the head of `inputs`, or an idle edge once the list is empty (assumption
log 2). -/
def State.nextEvent (s : State) : HostEvent := s.inputs.headD (.edge PortIn.idle)

/-- The event is used up and the cycle counter moves on; registers and stage unchanged. -/
def State.advance (s : State) : State := { s with inputs := s.inputs.tail, tick := s.tick + 1 }

/-- The block goes to another stage of the handshake; registers unchanged. -/
def State.setStage (s : State) (g : Stage) : State := { s with stage := g }

/-- The output `cmd_ready`: 0 in the cycle after a reset edge (R71), 0 while a command's latency runs and 1 after it
(R75), unspecified before the first reset (R73). It depends on no input of the cycle (R39). -/
def State.cmdReady (s : State) : Bool :=
  match s.stage with
  | .beforeReset => Config.unresetReady s.tick
  | .afterReset => false
  | .running busy => busy == 0

/-- Whether the ports `dout` and `err` are guaranteed to show the registers in this cycle: every cycle with
`cmd_ready = 1` and every cycle after a reset edge (R49), but nothing before the first reset (R73, R74). -/
def State.portsGuaranteed (s : State) : Bool :=
  match s.stage with
  | .beforeReset => false
  | .afterReset => true
  | .running busy => busy == 0

/-- The output port `dout` (R49, R76): the register where that is guaranteed, any value elsewhere (assumption log 4). -/
def State.doutPort (s : State) : Word :=
  if s.portsGuaranteed then s.regDout else Config.freeDoutPort s.tick

/-- The output port `err` (R49, R76): the register where that is guaranteed, any value elsewhere (assumption log 4). -/
def State.errPort (s : State) : BitVec 1 :=
  if s.portsGuaranteed then s.regErr else Config.freeErrPort s.tick

/-- R38: at an edge with inputs `p` a command is accepted exactly when `rst = 0`, `cmd_valid = 1` and `cmd_ready = 1`. -/
def State.accepts (s : State) (p : PortIn) : Bool := !p.rst && p.cmdValid && s.cmdReady

/-- An edge with `rst = 1` (R71): the reset values, no command accepted, a command in its latency abandoned. -/
def State.resetEdge (s : State) : State := (s.advance.resetRegs).setStage .afterReset

/-- The stage after an edge with `rst = 0` at which no command is accepted: ready in the cycle after the first edge with
`rst = 0` (R72), one busy cycle fewer (R75). -/
def Stage.tickDown : Stage → Stage
  | .beforeReset => .beforeReset
  | .afterReset => .running 0
  | .running busy => .running (busy - 1)

/-- An edge with `rst = 0`, after the first reset, at which no command is accepted: no register changes (R38, R39). -/
def State.quietEdge (s : State) : State := s.advance.setStage s.stage.tickDown

/-- An edge with `rst = 0` before the first reset: nothing is specified of the state it leaves (R73), whether or not a
command is presented (assumption log 5). -/
def State.unresetEdge (s : State) : State := (s.advance.freeRegs).setStage .beforeReset

/-- After a power gap nothing is promised of the state (R69): the block stands before its first reset again (assumption
log 6). -/
def State.losePower (s : State) : State := (s.advance.freeRegs).setStage .beforeReset

/-- What remains at the edge that accepts a command word `c`, once its effect stands in the registers: the event is used
up and `cmd_ready` stays low for `CMD_LATENCY(op)` cycles, an illegal word counting as its `op` value (R75). -/
def State.afterAccept (lat : BitVec 4 → Nat) (c : Byte) (s : State) : State :=
  s.advance.setStage (.running (lat (opField c)))

/-- The block at power-up, before its first reset (R73), for a host that will do `inputs`, in cycle `tick`. -/
def State.powerUp (inputs : List HostEvent) (tick : Nat) : State :=
  State.freeRegs { State.reset with stage := .beforeReset, inputs := inputs, tick := tick }

end Sys2Proof.Machine
end

