-- ==== Sys2Proof/Machine/Edge.lean ====
section
/-! DEFINITION. What one step does: one rising edge of `clk` (R37), or a power gap (R69). `stepWith` takes `CMD_LATENCY` as an
argument (R6). The placing of a table word at the port stands here too. -/

namespace Sys2Proof.Machine

/-- The effect of accepting `(c, d)` on the registers: the rule of the opcode for a legal word, IllegalCommand for every
other (R63). -/
def commandEffect (c : Byte) (d : Word) (s : State) : Host.Outcome State Fault Refusal :=
  match decode c d with
  | .instr i => exec i s
  | .illegal _ => .next (raiseIllegalCommand s)

/-- An edge that accepts `(c, d)`: its effect, then the busy cycles of its opcode (R38, R75). -/
def acceptEdge (lat : BitVec 4 → Nat) (c : Byte) (d : Word) (s : State) : Host.Outcome State Fault Refusal :=
  match commandEffect c d s with
  | .next t => .next (t.afterAccept lat c)
  | .fault f => .fault f
  | .refused r => .refused r

/-- A rising edge of `clk` with inputs `p`. Reset takes precedence over every command (R66). -/
def edgeWith (lat : BitVec 4 → Nat) (p : PortIn) (s : State) : Host.Outcome State Fault Refusal :=
  if p.rst then .next s.resetEdge
  else if s.stage = .beforeReset then .next s.unresetEdge
  else if s.accepts p then acceptEdge lat p.cmd p.din s
  else .next s.quietEdge

/-- One step of the block for given command latencies. -/
def stepWith (lat : BitVec 4 → Nat) (s : State) : Host.Outcome State Fault Refusal :=
  match s.nextEvent with
  | .edge p => edgeWith lat p s
  | .powerGap => .next s.losePower

/-- A table word presented at the next edge of a block that is ready for a command, before anything else the host does
(assumption log 7, 11). -/
def State.presentWord (s : State) (nbits w : Nat) : State :=
  { s with
    stage := .running 0
    inputs := .edge (PortIn.present (tableWordCmd nbits w) (tableWordDin nbits w)) :: s.inputs }

end Sys2Proof.Machine
end

