-- ==== Sys2Proof/Machine/Step.lean ====
section
/-! DEFINITION. The step of the block, with the latencies the spec leaves open (R6), and how a table word is placed where the
next step takes its command. -/

namespace Sys2Proof.Machine

/-- One step: one rising edge of `clk`, or a power gap. -/
def step (s : State) : Host.Outcome State Fault Refusal := stepWith Config.cmdLatency s

/-- `s` with the command of a table word presented at its next edge and the port ready, so that the very next step accepts
it (assumption log 11). -/
def State.withFetchWord (s : State) (nbits w : Nat) : State := s.presentWord nbits w

end Sys2Proof.Machine
end

