-- ==== Sys2Proof/Machine/Assembler.lean ====
section
/-! DEFINITION. The assembler of R47 and the pseudo-instructions of R48: from a line to the transactions the host issues.
The block sees only these (R48). `Machine/AsmText.lean` reads a line's text. -/

namespace Sys2Proof.Machine

/-- The mnemonics of R47, one per opcode of R42. -/
inductive Mnemonic where
  | nop | init | load | update | rdstate | final | rdtab
deriving DecidableEq, Repr

/-- A line of R47 or a pseudo-instruction of R48, its numbers as written. -/
inductive AsmLine where
  /-- A mnemonic, a size suffix `.k` and an operand `#imm`, each of the last two where the line has one. -/
  | command (m : Mnemonic) (size : Option Nat) (imm : Option Nat)
  /-- `.cmd c, d`: the raw transaction. -/
  | raw (c d : Nat)
  /-- `CRCBYTES m[0], …` -/
  | crcBytes (ms : List Nat)
  /-- `CRCSTR "text"` -/
  | crcStr (text : List Char)
  /-- `CRC32 m[0], …` -/
  | crc32 (ms : List Nat)
  /-- `RESUME #v`, another name of `LOAD #v`. -/
  | resume (v : Nat)
deriving DecidableEq, Repr

/-- Why the assembler refuses a line (R47, R48). -/
inductive AsmError where
  /-- An operand where the table of R47 says none. -/
  | operandNotAllowed
  /-- No operand where the table of R47 has one. -/
  | operandMissing
  /-- An UPDATE without a size. -/
  | sizeMissing
  /-- A size on a command other than UPDATE. -/
  | sizeNotAllowed
  /-- A size outside 1 to 4. -/
  | sizeOutOfRange
  /-- An immediate that does not fit. -/
  | immediateTooWide
  /-- A message byte above 255 (R48). -/
  | byteOutOfRange
  /-- A character of CRCSTR with no ASCII code (R48). -/
  | notAscii
  /-- Text that is no line of the syntax; raised by `Machine/AsmText.lean`. -/
  | badSyntax
deriving DecidableEq, Repr

/-- A command with neither size nor operand (R47). -/
def assembleBare (i : Instr) (size imm : Option Nat) : Except AsmError Instr :=
  match size, imm with
  | some _, _ => .error .sizeNotAllowed
  | none, some _ => .error .operandNotAllowed
  | none, none => .ok i

/-- A command with one operand of `bits` bits and no size (R47). -/
def assembleOperand (bits : Nat) (f : Nat → Instr) (size imm : Option Nat) : Except AsmError Instr :=
  match size, imm with
  | some _, _ => .error .sizeNotAllowed
  | none, none => .error .operandMissing
  | none, some v => if v < 2 ^ bits then .ok (f v) else .error .immediateTooWide

/-- `UPDATE.k #v` with `k` in 1 to 4 and `v` no wider than `8k` bits (R47). -/
def assembleUpdate (size imm : Option Nat) : Except AsmError Instr :=
  match size, imm with
  | none, _ => .error .sizeMissing
  | some k, imm =>
    if k = 0 ∨ 4 < k then .error .sizeOutOfRange
    else match imm with
      | none => .error .operandMissing
      | some v =>
        if v < 2 ^ (8 * k) then .ok (.update (BitVec.ofNat 2 (k - 1)) (BitVec.ofNat 32 v))
        else .error .immediateTooWide

/-- The command of a line with a mnemonic (the table of R47). -/
def assembleCommand (m : Mnemonic) (size imm : Option Nat) : Except AsmError Instr :=
  match m with
  | .nop => assembleBare .nop size imm
  | .init => assembleBare .init size imm
  | .load => assembleOperand 32 (fun v => .load (BitVec.ofNat 32 v)) size imm
  | .update => assembleUpdate size imm
  | .rdstate => assembleBare .rdstate size imm
  | .final => assembleBare .final size imm
  | .rdtab => assembleOperand 8 (fun v => .rdtab (BitVec.ofNat 8 v)) size imm

/-- The message bytes of a list of numbers, each 0 to 255 (R48). -/
def toMessage : List Nat → Except AsmError (List Byte)
  | [] => .ok []
  | m :: ms =>
    if m < 256 then (toMessage ms).map (BitVec.ofNat 8 m :: ·) else .error .byteOutOfRange

/-- The ASCII codes of a text (R48). -/
def toAscii : List Char → Except AsmError (List Byte)
  | [] => .ok []
  | ch :: text =>
    if ch.toNat < 128 then (toAscii text).map (BitVec.ofNat 8 ch.toNat :: ·) else .error .notAscii

/-- CRCBYTES of R48: one UPDATE.4 for each four bytes, then one UPDATE.r for the `r` bytes left over, nothing for no
bytes. -/
def crcBytesInstrs : List Byte → List Instr
  | [] => []
  | [b0] => [.update 0#2 (packBytes [b0])]
  | [b0, b1] => [.update 1#2 (packBytes [b0, b1])]
  | [b0, b1, b2] => [.update 2#2 (packBytes [b0, b1, b2])]
  | b0 :: b1 :: b2 :: b3 :: rest => .update 3#2 (packBytes [b0, b1, b2, b3]) :: crcBytesInstrs rest

/-- CRC32 of R48: INIT, CRCBYTES, FINAL. -/
def crc32Instrs (m : List Byte) : List Instr := .init :: (crcBytesInstrs m ++ [.final])

/-- The transactions of a line: each command as `encode` writes it, unused `din` bits zero; `.cmd c, d` as written, if it
fits, and the only way to write an illegal command (R47, R48). -/
def assemble : AsmLine → Except AsmError (List (Byte × Word))
  | .command m size imm => (assembleCommand m size imm).map (fun i => [encode i])
  | .raw c d =>
    if c < 2 ^ 8 ∧ d < 2 ^ 32 then .ok [(BitVec.ofNat 8 c, BitVec.ofNat 32 d)] else .error .immediateTooWide
  | .crcBytes ms => (toMessage ms).map (fun m => (crcBytesInstrs m).map encode)
  | .crcStr text => (toAscii text).map (fun m => (crcBytesInstrs m).map encode)
  | .crc32 ms => (toMessage ms).map (fun m => (crc32Instrs m).map encode)
  | .resume v => (assembleCommand .load none (some v)).map (fun i => [encode i])

end Sys2Proof.Machine
end

