-- ==== Sys2Proof/Machine/AsmText.lean ====
section
/-! DEFINITION. The text of an assembler line (R47, R48): a mnemonic, an optional size suffix, at most one operand, `;` for
a comment. Where the spec gives no lexical detail (blanks, letter case), assumption log 12 says what is taken. -/

namespace Sys2Proof.Machine

/-- A piece of a line: a run of characters without blanks, a comma, or the text between two double quotes. -/
inductive AsmToken where
  | word (cs : List Char)
  | comma
  | quoted (cs : List Char)
deriving DecidableEq, Repr

/-- The word collected so far, in reverse, as a token unless it is empty. -/
def flushWord (cur : List Char) : List AsmToken :=
  if cur.isEmpty then [] else [.word cur.reverse]

/-- Cuts a line into tokens. `cur` is the run collected so far, in reverse, and `inQuote` says that it is inside double
quotes (character 34). A `;` (59) outside quotes starts a comment (R47). A quote left open is refused. -/
def lexLine (cur : List Char) (inQuote : Bool) : List Char → Option (List AsmToken)
  | [] => if inQuote then none else some (flushWord cur)
  | ch :: rest =>
    if inQuote then
      if ch.toNat = 34 then (lexLine [] false rest).map (.quoted cur.reverse :: ·)
      else lexLine (ch :: cur) true rest
    else if ch.toNat = 59 then some (flushWord cur)
    else if ch.toNat = 32 ∨ ch.toNat = 9 then (lexLine [] false rest).map (flushWord cur ++ ·)
    else if ch.toNat = 44 then (lexLine [] false rest).map (flushWord cur ++ .comma :: ·)
    else if ch.toNat = 34 then (lexLine [] true rest).map (flushWord cur ++ ·)
    else lexLine (ch :: cur) false rest

/-- The value of a decimal digit. -/
def decDigit (ch : Char) : Option Nat :=
  if 48 ≤ ch.toNat ∧ ch.toNat ≤ 57 then some (ch.toNat - 48) else none

/-- The value of a hexadecimal digit, of either case. -/
def hexDigit (ch : Char) : Option Nat :=
  if 65 ≤ ch.toNat ∧ ch.toNat ≤ 70 then some (ch.toNat - 55)
  else if 97 ≤ ch.toNat ∧ ch.toNat ≤ 102 then some (ch.toNat - 87)
  else decDigit ch

/-- The number whose digits, of base `base`, follow those of `acc`. -/
def readDigits (base : Nat) (digit : Char → Option Nat) (acc : Nat) : List Char → Option Nat
  | [] => some acc
  | ch :: rest => (digit ch).bind (fun k => readDigits base digit (acc * base + k) rest)

/-- A hexadecimal number with the prefix `0x`, or a decimal number (R47). -/
def readNumber : List Char → Option Nat
  | [] => none
  | '0' :: 'x' :: rest => if rest.isEmpty then none else readDigits 16 hexDigit 0 rest
  | ch :: rest => readDigits 10 decDigit 0 (ch :: rest)

/-- An operand `#imm` (R47). -/
def readImm : List Char → Option Nat
  | '#' :: rest => readNumber rest
  | _ => none

/-- A mnemonic, without its suffix. -/
def readMnemonic (cs : List Char) : Option Mnemonic :=
  if cs = ['N', 'O', 'P'] then some .nop
  else if cs = ['I', 'N', 'I', 'T'] then some .init
  else if cs = ['L', 'O', 'A', 'D'] then some .load
  else if cs = ['U', 'P', 'D', 'A', 'T', 'E'] then some .update
  else if cs = ['R', 'D', 'S', 'T', 'A', 'T', 'E'] then some .rdstate
  else if cs = ['F', 'I', 'N', 'A', 'L'] then some .final
  else if cs = ['R', 'D', 'T', 'A', 'B'] then some .rdtab
  else none

/-- A mnemonic with its suffix `.k`, if it has one; `k` is decimal. -/
def readHead (cs : List Char) : Option (Mnemonic × Option Nat) :=
  match cs.span (· ≠ '.') with
  | (name, []) => (readMnemonic name).map (·, none)
  | (name, _ :: suffix) =>
    if suffix.isEmpty then none
    else (readMnemonic name).bind (fun m => (readDigits 10 decDigit 0 suffix).map (m, some ·))

/-- One or more numbers with a comma between any two. -/
def readNumbers : List AsmToken → Option (List Nat)
  | [.word cs] => (readNumber cs).map ([·])
  | .word cs :: .comma :: rest => (readNumber cs).bind (fun k => (readNumbers rest).map (k :: ·))
  | _ => none

/-- The message of CRCBYTES and CRC32: `L >= 0` numbers with commas between them (R48). -/
def readMessage : List AsmToken → Option (List Nat)
  | [] => some []
  | ts => readNumbers ts

/-- The line that begins with the word `head`. -/
def parseHead (head : List Char) (rest : List AsmToken) : Option AsmLine :=
  if head = ['.', 'c', 'm', 'd'] then
    match rest with
    | [.word c, .comma, .word d] => (readNumber c).bind (fun x => (readNumber d).map (.raw x ·))
    | _ => none
  else if head = ['C', 'R', 'C', 'B', 'Y', 'T', 'E', 'S'] then (readMessage rest).map .crcBytes
  else if head = ['C', 'R', 'C', '3', '2'] then (readMessage rest).map .crc32
  else if head = ['C', 'R', 'C', 'S', 'T', 'R'] then
    match rest with
    | [.quoted text] => some (.crcStr text)
    | _ => none
  else if head = ['R', 'E', 'S', 'U', 'M', 'E'] then
    match rest with
    | [.word v] => (readImm v).map .resume
    | _ => none
  else
    match rest with
    | [] => (readHead head).map (fun h => .command h.1 h.2 none)
    | [.word v] => (readHead head).bind (fun h => (readImm v).map (fun x => .command h.1 h.2 (some x)))
    | _ => none

/-- A line of text: nothing for a line that is blank or a comment only. -/
def parseLine (text : List Char) : Except AsmError (Option AsmLine) :=
  match lexLine [] false text with
  | some [] => .ok none
  | some (.word head :: rest) =>
    match parseHead head rest with
    | some line => .ok (some line)
    | none => .error .badSyntax
  | _ => .error .badSyntax

/-- The transactions of a line of text. -/
def assembleText (text : List Char) : Except AsmError (List (Byte × Word)) :=
  match parseLine text with
  | .ok none => .ok []
  | .ok (some line) => assemble line
  | .error e => .error e

end Sys2Proof.Machine
end

