-- ==== Sys2Proof/Machine/HostContext.lean ====
section
/-! DEFINITION. Context, not the block (20_memory.md section 5, R30 to R35): which bytes the DfuSe codec feeds, the
checksum it stores, and how a host verifies one. The layout of the records is read from the worked file of
95_test_vectors.md P3 and the sizes of 90_conflicts.md (assumption log 13). -/

namespace Sys2Proof.Machine

/-- One target of an image: where its payload goes and the payload. -/
structure DfuTarget where
  address : Word
  payload : List Byte
deriving DecidableEq, Repr

/-- One image: its alternate setting, its name field and its targets. -/
structure DfuImage where
  altSetting : Byte
  named : Word
  name : List Byte
  targets : List DfuTarget
deriving DecidableEq, Repr

/-- The contents of a DfuSe file. -/
structure DfuFile where
  deviceVersion : BitVec 16
  product : BitVec 16
  vendor : BitVec 16
  images : List DfuImage
deriving DecidableEq, Repr

/-- TargetPrefix ‖ TargetPayload (R30): address, payload size, payload. -/
def targetBytes (t : DfuTarget) : List Byte :=
  le32 t.address ++ le32 (BitVec.ofNat 32 t.payload.length) ++ t.payload

/-- `totalElementSize`, the sum of `payload size + 8` over the targets (95_test_vectors.md W4). -/
def totalElementSize (img : DfuImage) : Nat := (img.targets.map (fun t => t.payload.length + 8)).sum

/-- The name field: NUL-padded to 255 bytes (95_test_vectors.md P3). -/
def nameField (name : List Byte) : List Byte := (name ++ List.replicate 255 0#8).take 255

/-- ImagePrefix, 274 bytes: "Target", alternate setting, named, name, element size, element count. -/
def imagePrefix (img : DfuImage) : List Byte :=
  [0x54#8, 0x61#8, 0x72#8, 0x67#8, 0x65#8, 0x74#8] ++ [img.altSetting] ++ le32 img.named ++ nameField img.name ++
    le32 (BitVec.ofNat 32 (totalElementSize img)) ++ le32 (BitVec.ofNat 32 img.targets.length)

/-- One image as it stands in the file (R30). -/
def imageBytes (img : DfuImage) : List Byte := imagePrefix img ++ img.targets.flatMap targetBytes

/-- `fileSizeField` of R31: 11, and `274 + totalElementSize` for each image. -/
def fileSizeField (f : DfuFile) : Nat := 11 + (f.images.map (fun img => 274 + totalElementSize img)).sum

/-- FilePrefix, 11 bytes: "DfuSe", version 1, file size, image count. -/
def filePrefix (f : DfuFile) : List Byte :=
  [0x44#8, 0x66#8, 0x75#8, 0x53#8, 0x65#8] ++ [0x01#8] ++ le32 (BitVec.ofNat 32 (fileSizeField f)) ++
    [BitVec.ofNat 8 f.images.length]

/-- The first 12 bytes of FileSuffix: device version, product, vendor, 0x011A, "UFD", 16 (R30). -/
def fileSuffix12 (f : DfuFile) : List Byte :=
  le16 f.deviceVersion ++ le16 f.product ++ le16 f.vendor ++ le16 0x011A#16 ++ [0x55#8, 0x46#8, 0x44#8] ++ [16#8]

/-- The CRC domain of R30: every byte of the file but the checksum field. -/
def crcDomain (f : DfuFile) : List Byte := filePrefix f ++ f.images.flatMap imageBytes ++ fileSuffix12 f

/-- The stored checksum of R33: the finalized value of a freestanding computation over the CRC domain. -/
def storedChecksum (f : DfuFile) : Word := crc32 (crcDomain f)

/-- The whole file: the CRC domain and the checksum, little-endian (R33). -/
def fileBytes (f : DfuFile) : List Byte := crcDomain f ++ le32 (storedChecksum f)

/-- Construction path of R34: after each image added, the checksum is computed from the start over the whole current
domain: one INIT, its UPDATEs and one FINAL per `AddImage`. -/
def addImagesInstrs (f : DfuFile) : List DfuImage → List Instr
  | [] => []
  | img :: rest =>
    let g := { f with images := f.images ++ [img] }
    crc32Instrs (crcDomain g) ++ addImagesInstrs g rest

/-- Write path of R34: `S` carried across the successive writes of one serialization, finalized once. -/
def writePathInstrs (writes : List (List Byte)) : List Instr :=
  .init :: (writes.flatMap crcBytesInstrs ++ [.final])

/-- The first check of R35: the FINAL value over the domain is the stored checksum. -/
def verifyByCompare (domain : List Byte) (stored : Word) : Bool := crc32 domain == stored

/-- The second check of R35: feeding the domain and the four stored bytes leaves `S = 0xDEBB20E3`. -/
def verifyByResidue (domain : List Byte) (stored : Word) : Bool :=
  crcUpdate Config.initState (domain ++ le32 stored) == 0xDEBB20E3#32

end Sys2Proof.Machine
end

