-- ==== Sys2Proof/Machine/Driver.lean ====
section
/-! DEFINITION. The host's side of the port: command sequences (R13: the order of commands is the host's), their effect
one after another (R28), and the edges by which a host issues them (R38, R75). -/

namespace Sys2Proof.Machine

/-- The effect of a sequence of accepted commands, each on the state the one before it left (R28). -/
def runCommands : List (Byte × Word) → State → Host.Outcome State Fault Refusal
  | [], s => .next s
  | (c, d) :: rest, s =>
    match commandEffect c d s with
    | .next t => runCommands rest t
    | .fault f => .fault f
    | .refused r => .refused r

/-- The message bytes one transaction feeds: those of a legal UPDATE, none of any other word (R54, R56). -/
def fedBytes (c : Byte) (d : Word) : List Byte :=
  match decode c d with
  | .instr (.update n v) => updateBytes n v
  | _ => []

/-- The message bytes a sequence of transactions feeds, in order (R20). -/
def fedMessage : List (Byte × Word) → List Byte
  | [] => []
  | (c, d) :: rest => fedBytes c d ++ fedMessage rest

/-- A host that presents `(c, d)` to a ready block and waits out its latency with nothing presented (R38, R75). -/
def driveCommand (lat : BitVec 4 → Nat) (c : Byte) (d : Word) : List HostEvent :=
  .edge (PortIn.present c d) :: List.replicate (lat (opField c)) (.edge PortIn.idle)

/-- A host that issues the commands of a sequence one after another. -/
def driveCommands (lat : BitVec 4 → Nat) : List (Byte × Word) → List HostEvent
  | [] => []
  | (c, d) :: rest => driveCommand lat c d ++ driveCommands lat rest

end Sys2Proof.Machine
end

