-- ==== Sys2Proof/Safety.lean ====
section
/-! DEFINITION. The terms claims are stated in: runs of the block, what a host does not do during a run, which commands a
run accepts, and the invariant of the block. -/

namespace Sys2Proof.Machine

/-- The spec's registers `S`, `DOUT`, `ERR` (R12). -/
def State.regs (s : State) : Word × Word × BitVec 1 := (s.regS, s.regDout, s.regErr)

/-- The registers' values after reset (R14). -/
def resetRegValues : Word × Word × BitVec 1 := (0xFFFFFFFF#32, 0#32, 0#1)

/-- `n` steps of the block for given command latencies (R6). -/
def runWith (lat : BitVec 4 → Nat) : Nat → State → Host.Outcome State Fault Refusal
  | 0, s => .next s
  | n + 1, s =>
    match stepWith lat s with
    | .next t => runWith lat n t
    | .fault f => .fault f
    | .refused r => .refused r

/-- `n` steps of the block. -/
def run (n : Nat) (s : State) : Host.Outcome State Fault Refusal := runWith Config.cmdLatency n s

/-- The block has been reset since power-up or a power gap, so the rules hold (R73, R74). -/
def State.initialised (s : State) : Bool := s.stage != .beforeReset

/-- The event neither resets the block nor takes its power. -/
def HostEvent.keepsRunning : HostEvent → Bool
  | .edge p => !p.rst
  | .powerGap => false

/-- The event is an edge at which the host neither resets the block nor presents a command. -/
def HostEvent.idles : HostEvent → Bool
  | .edge p => !p.rst && !p.cmdValid
  | .powerGap => false

/-- None of the next `n` events resets the block or takes its power. -/
def State.undisturbed (n : Nat) (s : State) : Bool := (s.inputs.take n).all HostEvent.keepsRunning

/-- The command accepted at the next step, if there is one (R38). -/
def State.acceptedHere (s : State) : List (Byte × Word) :=
  match s.nextEvent with
  | .edge p => if s.initialised && s.accepts p then [(p.cmd, p.din)] else []
  | .powerGap => []

/-- The commands accepted in the next `n` steps, in order (R28). -/
def acceptedBy : Nat → State → List (Byte × Word)
  | 0, _ => []
  | n + 1, s =>
    s.acceptedHere ++
      match step s with
      | .next t => acceptedBy n t
      | _ => []

/-- A sequence of command words with no INIT and no LOAD, so that one computation goes on through it (R56). -/
def keepsComputation (cs : List (Byte × Word)) : Bool := cs.all (fun p => p.1 != 0x10#8 && p.1 != 0x20#8)

/-- The invariant of the block: in the cycle after a reset edge the registers hold their reset values (R71), and
`cmd_ready` is never held low for longer than the latency of some opcode (R75). -/
def State.Inv (s : State) : Prop :=
  match s.stage with
  | .beforeReset => True
  | .afterReset => s.regs = resetRegValues
  | .running busy => ∃ op, busy ≤ Config.cmdLatency op

end Sys2Proof.Machine
end

