-- ==== Sys2Proof/Certificates/Slice0/Obligations.lean ====
section
/-! DEFINITION. The statements for the provers. Each docstring names the rule it formalises, or says on what it rests. -/

open Sys2Proof Sys2Proof.Machine

/-! ### Encoding (30_encoding.md) -/

/-- Decoding the transaction the encoder writes for a well-formed command gives the command back, for every command and
every operand value (R42, R44, R47). -/
def Obligations.DecodeEncodeRoundTrip : Prop :=
  ∀ i : Instr, i.wf = true → decode (encode i).1 (encode i).2 = .instr i

/-- Encoding what the decoder reads gives the same command word, the used bits of `din` unchanged and its other bits zero;
and what the decoder reads is well-formed. Word and used bits are R42 and R44. For UPDATE, that the other operand bits are
zero and the term is well-formed is the model's choice (assumption log 9): R45 only says that those bits are ignored. -/
def Obligations.EncodeDecodeCanonical : Prop :=
  ∀ (c : Byte) (d : Word) (i : Instr), decode c d = .instr i →
    i.wf = true ∧ (encode i).1 = c ∧
    (∀ k, k < usedDinBits c → (encode i).2.getLsbD k = d.getLsbD k) ∧
    (∀ k, usedDinBits c ≤ k → (encode i).2.getLsbD k = false)

/-- R43: the legal words are exactly ten, 246 are illegal and have the effect of R63, and the decoder reads a command from
exactly the legal words. -/
def Obligations.LegalWordsAreTheTen : Prop :=
  (∀ c : Byte, legal c = true ↔
    c ∈ [0x00#8, 0x10#8, 0x20#8, 0x30#8, 0x31#8, 0x32#8, 0x33#8, 0x40#8, 0x50#8, 0x60#8]) ∧
  ((List.range 256).filter (fun k => !legal (BitVec.ofNat 8 k))).length = 246 ∧
  (∀ (c : Byte) (d : Word), (∃ i, decode c d = .instr i) ↔ legal c = true) ∧
  (∀ (c : Byte) (d : Word) (s : State), legal c = false →
    commandEffect c d s = .next { s with regErr := 1#1 })

/-- R46: the reserved space is illegal, all of it and nothing else; every reserved word raises IllegalCommand, and NOP is
the single word `0x00`. -/
def Obligations.ReservedSpaceRaises : Prop :=
  (∀ c : Byte, legal c = false ↔
    7 ≤ (opField c).toNat ∨ rsvField c ≠ 0#2 ∨ (opField c ≠ 3#4 ∧ countField c ≠ 0#2)) ∧
  (∀ (c : Byte) (d : Word) (s : State),
    7 ≤ (opField c).toNat ∨ rsvField c ≠ 0#2 ∨ (opField c ≠ 3#4 ∧ countField c ≠ 0#2) →
    commandEffect c d s = .next { s with regErr := 1#1 }) ∧
  (∀ (c : Byte) (d : Word), decode c d = .instr .nop ↔ c = 0x00#8)

/-- R45: which bits of `din` each word uses, and that the other bits never change the outcome of the step at which the
command is presented to a block that has been reset. -/
def Obligations.UnusedDinBitsAreIgnored : Prop :=
  (usedDinBits 0x00#8 = 0 ∧ usedDinBits 0x10#8 = 0 ∧ usedDinBits 0x40#8 = 0 ∧ usedDinBits 0x50#8 = 0) ∧
  (∀ c : Byte, legal c = false → usedDinBits c = 0) ∧
  (∀ n : BitVec 2, usedDinBits (0x30#8 ||| n.setWidth 8) = 8 * (n.toNat + 1)) ∧
  usedDinBits 0x60#8 = 8 ∧ usedDinBits 0x20#8 = 32 ∧
  (∀ (c : Byte) (d d' : Word) (s : State) (rest : List HostEvent),
    s.initialised = true → (∀ k, k < usedDinBits c → d.getLsbD k = d'.getLsbD k) →
    step { s with inputs := .edge (PortIn.present c d) :: rest } =
      step { s with inputs := .edge (PortIn.present c d') :: rest })

/-- One word of each row of the opcode table, written out from R42 and R44, decodes to its command. That UPDATE's operand
keeps zeros where `din` has ignored bits is the model's choice (assumption log 9). -/
def Obligations.WordsWrittenOutDecode : Prop :=
  decode 0b00000000#8 0xFFFFFFFF#32 = .instr .nop ∧
  decode 0b00010000#8 0xDEADBEEF#32 = .instr .init ∧
  decode 0b00100000#8 0x641C1F5C#32 = .instr (.load 0x641C1F5C#32) ∧
  decode 0b00110001#8 0xAB003231#32 = .instr (.update 1#2 0x00003231#32) ∧
  decode 0b01000000#8 0x00000000#32 = .instr .rdstate ∧
  decode 0b01010000#8 0x00000000#32 = .instr .final ∧
  decode 0b01100000#8 0xFFFFFF01#32 = .instr (.rdtab 0x01#8)

/-- R42: the effect of every command word read off the opcode map, with every register it does not write unchanged: the ten
legal words, then every illegal one, whatever its opcode. -/
def Obligations.OpcodeMapEffects : Prop :=
  ∀ (d : Word) (s : State),
    commandEffect 0x00#8 d s = .next s ∧
    commandEffect 0x10#8 d s = .next { s with regS := 0xFFFFFFFF#32 } ∧
    commandEffect 0x20#8 d s = .next { s with regS := d } ∧
    commandEffect 0x30#8 d s = .next { s with regS := crcByte s.regS (d.extractLsb' 0 8) } ∧
    commandEffect 0x31#8 d s = .next { s with
      regS := crcByte (crcByte s.regS (d.extractLsb' 0 8)) (d.extractLsb' 8 8) } ∧
    commandEffect 0x32#8 d s = .next { s with
      regS := crcByte (crcByte (crcByte s.regS (d.extractLsb' 0 8)) (d.extractLsb' 8 8)) (d.extractLsb' 16 8) } ∧
    commandEffect 0x33#8 d s = .next { s with
      regS := crcByte (crcByte (crcByte (crcByte s.regS (d.extractLsb' 0 8)) (d.extractLsb' 8 8))
        (d.extractLsb' 16 8)) (d.extractLsb' 24 8) } ∧
    commandEffect 0x40#8 d s = .next { s with regDout := s.regS } ∧
    commandEffect 0x50#8 d s = .next { s with regDout := s.regS ^^^ 0xFFFFFFFF#32 } ∧
    commandEffect 0x60#8 d s = .next { s with regDout := tabRead (d.extractLsb' 0 8) } ∧
    (∀ c : Byte, legal c = false → commandEffect c d s = .next { s with regErr := 1#1 })

/-! ### The commands (40_control.md, 41_update.md, 42_readout.md) -/

/-- R50, NOP: its one word, no state changes, and the illegal words that share its opcode. -/
def Obligations.NopRule : Prop :=
  (∀ d : Word, decode 0x00#8 d = .instr .nop) ∧
  (∀ s : State, exec .nop s = .next s) ∧
  (∀ (c : Byte) (d : Word), opField c = 0#4 → rsvField c ≠ 0#2 ∨ countField c ≠ 0#2 →
    ∃ why, decode c d = .illegal why)

/-- R51, INIT: its word, `S <- 0xFFFFFFFF` and nothing else, and its corner cases. -/
def Obligations.InitRule : Prop :=
  (∀ d : Word, decode 0x10#8 d = .instr .init) ∧
  (∀ s : State, exec .init s = .next { s with regS := 0xFFFFFFFF#32 }) ∧
  (∀ s : State, s.regS = 0xFFFFFFFF#32 → exec .init s = .next s) ∧
  (∀ s : State, runCommands [encode .init, encode .final] s =
    .next { s with regS := 0xFFFFFFFF#32, regDout := 0x00000000#32 })

/-- R52, LOAD: its word, `S <- din` for every value and nothing else, `LOAD #0xFFFFFFFF` as INIT, what it does with a value
read by RDSTATE and with one read by FINAL, and the rule's example. -/
def Obligations.LoadRule : Prop :=
  (∀ d : Word, decode 0x20#8 d = .instr (.load d)) ∧
  (∀ (v : Word) (s : State), exec (.load v) s = .next { s with regS := v }) ∧
  (∀ s : State, exec (.load 0xFFFFFFFF#32) s = exec .init s) ∧
  (∀ s u : State, ∃ t v, exec .rdstate s = .next t ∧ exec (.load t.regDout) u = .next v ∧ v.regS = s.regS) ∧
  (∀ s u : State, ∃ t v, exec .final s = .next t ∧ exec (.load t.regDout) u = .next v ∧
    v.regS = s.regS ^^^ 0xFFFFFFFF#32) ∧
  crcUpdate 0xFFFFFFFF#32 [0x31#8, 0x32#8, 0x33#8, 0x34#8] = 0x641C1F5C#32

/-- R54, UPDATE: its four words with the bits of `din` each uses, the fold of `n+1` bytes with `v[7:0]` first into `S` and nothing else, for every operand
word whatever its upper bits, and the rule's corner cases and example. -/
def Obligations.UpdateRule : Prop :=
  (∀ (n : BitVec 2) (d : Word), ∃ v, decode (0x30#8 ||| n.setWidth 8) d = .instr (.update n v) ∧
    ∀ k, k < 8 * (n.toNat + 1) → v.getLsbD k = d.getLsbD k) ∧
  (∀ (v : Word) (s : State),
    exec (.update 0#2 v) s = .next { s with regS := crcByte s.regS (v.extractLsb' 0 8) } ∧
    exec (.update 1#2 v) s = .next { s with
      regS := crcByte (crcByte s.regS (v.extractLsb' 0 8)) (v.extractLsb' 8 8) } ∧
    exec (.update 2#2 v) s = .next { s with
      regS := crcByte (crcByte (crcByte s.regS (v.extractLsb' 0 8)) (v.extractLsb' 8 8)) (v.extractLsb' 16 8) } ∧
    exec (.update 3#2 v) s = .next { s with
      regS := crcByte (crcByte (crcByte (crcByte s.regS (v.extractLsb' 0 8)) (v.extractLsb' 8 8))
        (v.extractLsb' 16 8)) (v.extractLsb' 24 8) }) ∧
  (∀ (n : BitVec 2) (s : State), s.regS = 0#32 → exec (.update n 0#32) s = .next s) ∧
  (∀ s : Word, crcByte s (s.extractLsb' 0 8) = s >>> 8) ∧
  (∀ (n : BitVec 2) (v v' : Word) (s : State),
    (∀ k, k < 8 * (n.toNat + 1) → v.getLsbD k = v'.getLsbD k) → exec (.update n v) s = exec (.update n v') s) ∧
  (∀ s : State, s.regS = 0xFFFFFFFF#32 →
    exec (.update 0#2 0xFF#32) s = .next { s with regS := 0x00FFFFFF#32 } ∧
    exec (.update 3#2 0xFFFFFFFF#32) s = .next { s with regS := 0x00000000#32 } ∧
    exec (.update 3#2 0x34333231#32) s = .next { s with regS := 0x641C1F5C#32 })

/-- R58, RDSTATE: its word, `DOUT <- S` and nothing else, its value right after reset or INIT, and the rule's example. -/
def Obligations.RdstateRule : Prop :=
  (∀ d : Word, decode 0x40#8 d = .instr .rdstate) ∧
  (∀ s : State, exec .rdstate s = .next { s with regDout := s.regS }) ∧
  exec .rdstate State.reset = .next { State.reset with regDout := 0xFFFFFFFF#32 } ∧
  (∀ s : State, runCommands [encode .init, encode .rdstate] s =
    .next { s with regS := 0xFFFFFFFF#32, regDout := 0xFFFFFFFF#32 }) ∧
  (∀ s : State, runCommands [encode .init, encode (.update 3#2 0x34333231#32), encode .rdstate] s =
    .next { s with regS := 0x641C1F5C#32, regDout := 0x641C1F5C#32 })

/-- R59, FINAL: its word, `DOUT <- S ^ 0xFFFFFFFF`, the complement of `S`, and nothing else, and the rule's corner cases
and example. -/
def Obligations.FinalRule : Prop :=
  (∀ d : Word, decode 0x50#8 d = .instr .final) ∧
  (∀ s : State, exec .final s = .next { s with regDout := s.regS ^^^ 0xFFFFFFFF#32 }) ∧
  (∀ s : State, exec .final s = .next { s with regDout := ~~~s.regS }) ∧
  (∀ s : State, runCommands [encode .final, encode .final] s = exec .final s) ∧
  (∀ s : State, runCommands [encode .init, encode .final] s =
    .next { s with regS := 0xFFFFFFFF#32, regDout := 0x00000000#32 }) ∧
  (∀ s : State, s.regS = 0x00000000#32 → exec .final s = .next { s with regDout := 0xFFFFFFFF#32 }) ∧
  (∀ s : State, runCommands [encode .init, encode (.update 3#2 0x34333231#32), encode (.update 3#2 0x38373635#32),
      encode (.update 0#2 0x39#32), encode .final] s =
    .next { s with regS := 0x340BC6D9#32, regDout := 0xCBF43926#32 })

/-- R60, RDTAB: its word, `DOUT <- T[din[7:0]]` and nothing else, and the rule's corner cases and example. -/
def Obligations.RdtabRule : Prop :=
  (∀ d : Word, decode 0x60#8 d = .instr (.rdtab (d.extractLsb' 0 8))) ∧
  (∀ (i : Byte) (s : State), exec (.rdtab i) s = .next { s with regDout := tabRead i }) ∧
  (∀ s : State, exec (.rdtab 0x00#8) s = .next { s with regDout := 0x00000000#32 } ∧
    exec (.rdtab 0x80#8) s = .next { s with regDout := 0xEDB88320#32 } ∧
    exec (.rdtab 0xFF#8) s = .next { s with regDout := 0x2D02EF8D#32 }) ∧
  (∀ s : State, commandEffect 0x60#8 0xFFFFFF01#32 s = .next { s with regDout := 0x77073096#32 } ∧
    commandEffect 0x60#8 0x00000001#32 s = .next { s with regDout := 0x77073096#32 })

/-- R62: every legal command succeeds, whatever the registers and the operand, and leaves `ERR` as it was. -/
def Obligations.LegalCommandsNeverRaise : Prop :=
  (∀ (i : Instr) (s : State), ∃ t, exec i s = .next t ∧ t.regErr = s.regErr) ∧
  (∀ (c : Byte) (d : Word) (s : State), legal c = true → ∃ t, commandEffect c d s = .next t ∧ t.regErr = s.regErr)

/-! ### The table and the arithmetic (20_memory.md, 41_update.md) -/

/-- R18: the construction of R17 gives the 256 listed values. -/
def Obligations.TableMatchesListing : Prop :=
  Config.tableSize = 256 ∧ tableListing.length = Config.tableSize ∧ ∀ i : Byte, tableListing[i.toNat]? = some (tabRead i)

/-- R19: the two anchors of the table, and its linearity over XOR. -/
def Obligations.TableAnchorsAndLinearity : Prop :=
  tabRead 0x00#8 = 0x00000000#32 ∧ tabRead 0x80#8 = 0xEDB88320#32 ∧
  ∀ i j : Byte, tabRead (i ^^^ j) = tabRead i ^^^ tabRead j

/-- R53: the one-byte step, its index, and the two parts of its result. -/
def Obligations.CrcByteFormula : Prop :=
  ∀ (s : Word) (b : Byte),
    let index := s.extractLsb' 0 8 ^^^ b
    ((s ^^^ b.setWidth 32) &&& 0xFF#32) = index.setWidth 32 ∧
    crcByte s b = ((s >>> 8) &&& 0x00FFFFFF#32) ^^^ tabRead index ∧
    (s >>> 8) &&& 0x00FFFFFF#32 = s >>> 8 ∧
    (crcByte s b).extractLsb' 24 8 = (tabRead index).extractLsb' 24 8 ∧
    (crcByte s b).extractLsb' 0 24 = s.extractLsb' 8 24 ^^^ (tabRead index).extractLsb' 0 24

/-- R57: the table-driven step is eight steps of the bit-serial shift register from `s ^ zext_32(b)`. -/
def Obligations.BitSerialEquivalence : Prop :=
  ∀ (s : Word) (b : Byte), crcByte s b = shiftSteps 8 (s ^^^ b.setWidth 32)

/-- The meaning of "reflected" (20_memory.md section 2): the step folds the bits of a byte in one at a time, bit 0 first;
the shift register is the bit-reversed image of the one for `0x04C11DB7`, of which `POLY` is the bit-reversal. -/
def Obligations.BytesFoldLeastSignificantBitFirst : Prop :=
  (∀ (s : Word) (b : Byte), crcByte s b =
    (List.range 8).foldl (fun c k => shiftStep (c ^^^ (if b.getLsbD k then 1#32 else 0#32))) s) ∧
  (∀ c : Word, (shiftStep c).reverse =
    if c.reverse.msb then (c.reverse <<< 1) ^^^ 0x04C11DB7#32 else c.reverse <<< 1) ∧
  Config.poly.reverse = 0x04C11DB7#32

/-- R22: UPDATE's bytes in little-endian order, the bytes above byte `n` ignored; all four are the little-endian
serialization of the operand word. -/
def Obligations.UpdateBytesAreLittleEndian : Prop :=
  (∀ (n : BitVec 2) (v : Word), updateBytes n v =
    [v.extractLsb' 0 8, v.extractLsb' 8 8, v.extractLsb' 16 8, v.extractLsb' 24 8].take (n.toNat + 1)) ∧
  (∀ v : Word, updateBytes 3#2 v = le32 v)

/-- R56: the chaining law of the fold, and that every sequence of commands with no INIT and no LOAD, however it splits the
message and whatever reads and illegal words stand between, leaves in `S` the fold of the bytes it feeds. -/
def Obligations.ChainingOverAnySplit : Prop :=
  (∀ (s : Word) (m₁ m₂ : List Byte), crcUpdate s (m₁ ++ m₂) = crcUpdate (crcUpdate s m₁) m₂) ∧
  (∀ (cs : List (Byte × Word)) (s : State), keepsComputation cs = true →
    ∃ t, runCommands cs s = .next t ∧ t.regS = crcUpdate s.regS (fedMessage cs)) ∧
  (∀ (cs cs' : List (Byte × Word)) (s : State), keepsComputation cs = true → keepsComputation cs' = true →
    fedMessage cs = fedMessage cs' →
    ∃ t t', runCommands cs s = .next t ∧ runCommands cs' s = .next t' ∧ t.regS = t'.regS)

/-- R61: INIT, any commands that feed `m` with no INIT or LOAD between, FINAL: `DOUT` is `U(INIT, m) ^ XOROUT`. From LOAD of a
prior state, RDSTATE gives the running state and FINAL its finalized value. -/
def Obligations.FreestandingComputation : Prop :=
  ∀ (m : List Byte) (cs : List (Byte × Word)) (d d' : Word) (s : State),
    keepsComputation cs = true → fedMessage cs = m →
    (∃ t, runCommands ((0x10#8, d) :: (cs ++ [(0x50#8, d')])) s = .next t ∧
      t.regDout = crcUpdate 0xFFFFFFFF#32 m ^^^ 0xFFFFFFFF#32 ∧ t.regS = crcUpdate 0xFFFFFFFF#32 m) ∧
    (∀ prior : Word, ∃ t u, runCommands ((0x20#8, prior) :: (cs ++ [(0x40#8, d')])) s = .next t ∧
      runCommands ((0x20#8, prior) :: (cs ++ [(0x50#8, d')])) s = .next u ∧
      t.regDout = crcUpdate prior m ∧ u.regDout = crcUpdate prior m ^^^ 0xFFFFFFFF#32)

/-- R78: what RDSTATE saves, LOAD resumes, from any state the block is in by then; every later UPDATE continues the saved
computation, and the final value is the one-shot CRC of the whole message. -/
def Obligations.SaveAndResume : Prop :=
  ∀ s u : State, ∃ t v, exec .rdstate s = .next t ∧ exec (.load t.regDout) u = .next v ∧ v.regS = s.regS ∧
    ∀ cs : List (Byte × Word), keepsComputation cs = true →
      ∃ w, runCommands cs v = .next w ∧ w.regS = crcUpdate s.regS (fedMessage cs) ∧
        ∀ m₁ : List Byte, s.regS = crcUpdate 0xFFFFFFFF#32 m₁ →
          w.regS ^^^ 0xFFFFFFFF#32 = crcUpdate 0xFFFFFFFF#32 (m₁ ++ fedMessage cs) ^^^ 0xFFFFFFFF#32

/-- R79: a computation resumed from a FINAL value folds from `S ^ XOROUT`. Its running state is never the one of the
concatenated message, and no error is raised. -/
def Obligations.DoubleXorHazard : Prop :=
  ∀ s u : State, ∃ t v, exec .final s = .next t ∧ exec (.load t.regDout) u = .next v ∧
    ∀ cs : List (Byte × Word), keepsComputation cs = true → (∀ p ∈ cs, legal p.1 = true) →
      ∃ w, runCommands cs v = .next w ∧
        w.regS = crcUpdate (s.regS ^^^ 0xFFFFFFFF#32) (fedMessage cs) ∧
        w.regS ≠ crcUpdate s.regS (fedMessage cs) ∧ w.regErr = u.regErr

/-- The two checks of a stored checksum (20_memory.md section 5) agree on every domain and every stored value, and the
residue of every message followed by its own CRC is `0xDEBB20E3`. -/
def Obligations.ResidueCheckIsEquivalent : Prop :=
  (∀ m : List Byte, crcUpdate 0xFFFFFFFF#32 (m ++ le32 (crc32 m)) = 0xDEBB20E3#32) ∧
  (∀ (domain : List Byte) (stored : Word), verifyByResidue domain stored = verifyByCompare domain stored)

/-- R80: without INIT before a second message, FINAL gives the CRC of the two messages' concatenation. -/
def Obligations.ForgottenInitConcatenates : Prop :=
  ∀ (cs₁ cs₂ : List (Byte × Word)) (d₀ d₁ d₂ : Word) (s : State),
    keepsComputation cs₁ = true → keepsComputation cs₂ = true →
    ∃ t, runCommands ((0x10#8, d₀) :: (cs₁ ++ ((0x50#8, d₁) :: (cs₂ ++ [(0x50#8, d₂)])))) s = .next t ∧
      t.regDout = crc32 (fedMessage cs₁ ++ fedMessage cs₂)

/-! ### Errors (60_exceptions.md) -/

/-- R63: the whole effect of an illegal word is `ERR <- 1`, and at a ready port it completes through the normal handshake;
a legal word executes the rule of its opcode. -/
def Obligations.IllegalCommandSetsErrOnly : Prop :=
  ∀ (c : Byte) (d : Word) (s : State) (rest : List HostEvent),
    (legal c = false → commandEffect c d s = .next { s with regErr := 1#1 } ∧
      (s.stage = .running 0 → s.inputs = .edge (PortIn.present c d) :: rest →
        step s = .next { s with
          regErr := 1#1, stage := .running (Config.cmdLatency (opField c)), inputs := rest, tick := s.tick + 1 })) ∧
    (legal c = true → ∃ i, decode c d = .instr i ∧ commandEffect c d s = exec i s)

/-- R64: over any run with no reset, a set `ERR` stays set, and one that becomes set is owed to an accepted illegal command;
a reset edge clears it, and commands change `S` and `DOUT` in the same way whatever `ERR` is. -/
def Obligations.ErrStaysUntilReset : Prop :=
  (∀ (n : Nat) (s t : State), s.initialised = true → s.undisturbed n = true → run n s = .next t →
    (s.regErr = 1#1 → t.regErr = 1#1) ∧
    (s.regErr = 0#1 → (t.regErr = 1#1 ↔ ∃ p ∈ acceptedBy n s, legal p.1 = false))) ∧
  (∀ (c : Byte) (d : Word) (s : State) (e : BitVec 1), ∃ t t',
    commandEffect c d s = .next t ∧ commandEffect c d { s with regErr := e } = .next t' ∧
    t'.regS = t.regS ∧ t'.regDout = t.regDout) ∧
  (∀ s : State, s.resetEdge.regErr = 0#1)

/-- R66: a command is either legal and executes, leaving `ERR` alone, or illegal and only sets `ERR`; and at an edge with
`rst = 1` no command is accepted, so what is presented there changes nothing. -/
def Obligations.ResetTakesPrecedence : Prop :=
  (∀ (c : Byte) (d : Word) (s : State),
    (legal c = true ∧ ∃ i t, decode c d = .instr i ∧ exec i s = .next t ∧ commandEffect c d s = .next t ∧
      t.regErr = s.regErr) ∨
    (legal c = false ∧ commandEffect c d s = .next { s with regErr := 1#1 })) ∧
  (∀ (s : State) (p q : PortIn) (rest : List HostEvent), p.rst = true → q.rst = true →
    s.accepts p = false ∧ ({ s with inputs := .edge p :: rest } : State).acceptedHere = [] ∧
    step { s with inputs := .edge p :: rest } = step { s with inputs := .edge q :: rest })

/-! ### Reset, handshake and ports (70_reset_and_hazards.md, 30_encoding.md) -/

/-- R14: the registers after reset. (The table is a constant of the model and no part of State.) -/
def Obligations.ResetRegisterValues : Prop :=
  State.reset.regS = 0xFFFFFFFF#32 ∧ State.reset.regDout = 0x00000000#32 ∧ State.reset.regErr = 0#1 ∧
  ∀ s : State, s.resetEdge.regS = 0xFFFFFFFF#32 ∧ s.resetEdge.regDout = 0x00000000#32 ∧ s.resetEdge.regErr = 0#1

/-- R71: an edge with `rst = 1`, from any state whatever and with any command presented, gives the reset values, accepts no
command, abandons a command in its latency, and leaves `cmd_ready = 0`. -/
def Obligations.ResetEdgeIsComplete : Prop :=
  ∀ (s : State) (p : PortIn) (rest : List HostEvent), p.rst = true → s.inputs = .edge p :: rest →
    s.acceptedHere = [] ∧
    ∃ t, step s = .next t ∧ t.regS = 0xFFFFFFFF#32 ∧ t.regDout = 0x00000000#32 ∧ t.regErr = 0#1 ∧
      t.stage = .afterReset ∧ t.cmdReady = false ∧ t.inputs = rest

/-- R72: the first edge with `rst = 0` after a reset accepts nothing and is followed by `cmd_ready = 1`; the second may
accept a command. -/
def Obligations.LeavingResetTakesOneEdge : Prop :=
  ∀ (s : State) (p : PortIn) (c : Byte) (d : Word) (rest : List HostEvent),
    s.stage = .afterReset → p.rst = false → s.inputs = .edge p :: .edge (PortIn.present c d) :: rest →
    s.acceptedHere = [] ∧
    ∃ t, step s = .next t ∧ t.regs = s.regs ∧ t.cmdReady = true ∧ t.acceptedHere = [(c, d)]

/-- R38: a command is accepted exactly when `rst = 0`, `cmd_valid = 1` and `cmd_ready = 1`; its effect on the registers is
there after the edge, and it is the only one accepted. At every other edge but a reset no register changes. -/
def Obligations.AcceptanceExactly : Prop :=
  ∀ (s : State) (p : PortIn) (rest : List HostEvent), s.initialised = true → s.inputs = .edge p :: rest →
    (s.accepts p = true ↔ p.rst = false ∧ p.cmdValid = true ∧ s.cmdReady = true) ∧
    (s.accepts p = true → s.acceptedHere = [(p.cmd, p.din)] ∧
      ∃ t u, step s = .next t ∧ commandEffect p.cmd p.din s = .next u ∧ t.regs = u.regs) ∧
    (s.accepts p = false → s.acceptedHere = [] ∧
      (p.rst = false → ∃ t, step s = .next t ∧ t.regs = s.regs))

/-- R39: at an edge where a block that has been reset accepts no command, `cmd`, `din` and `cmd_valid` change nothing of the next state, and
`cmd_ready` depends on no input. -/
def Obligations.NotAcceptedHasNoEffect : Prop :=
  (∀ (s : State) (p q : PortIn) (rest : List HostEvent), s.initialised = true → p.rst = q.rst →
    s.accepts p = false → s.accepts q = false →
    step { s with inputs := .edge p :: rest } = step { s with inputs := .edge q :: rest }) ∧
  (∀ (s : State) (inputs : List HostEvent), ({ s with inputs := inputs } : State).cmdReady = s.cmdReady)

/-- A step at a ready port runs the decoded command: the command's own effect, then its event used up, the counter moved
and the busy cycles of its opcode (R38, R75; assumption log 1). -/
def Obligations.StepRunsDecodedCommand : Prop :=
  ∀ (s t : State) (c : Byte) (d : Word) (i : Instr) (rest : List HostEvent),
    s.stage = .running 0 → s.inputs = .edge (PortIn.present c d) :: rest → decode c d = .instr i →
    exec i s = .next t →
    step s = .next { t with
      stage := .running (Config.cmdLatency (opField c)), inputs := rest, tick := s.tick + 1 }

/-- R75: after an acceptance `cmd_ready` is 0 for exactly `CMD_LATENCY(op)` cycles and then 1, unless reset intervenes,
whatever the host presents meanwhile; the registers hold the command's effect all along. With a latency of 0 a ready block
stays ready. -/
def Obligations.LatencyThenReady : Prop :=
  (∀ (s : State) (c : Byte) (d : Word) (rest : List HostEvent), s.stage = .running 0 →
    s.inputs = .edge (PortIn.present c d) :: rest →
    (rest.take (Config.cmdLatency (opField c))).all HostEvent.keepsRunning = true →
    ∃ u, commandEffect c d s = .next u ∧
      ∀ j, j ≤ Config.cmdLatency (opField c) → ∃ t, run (j + 1) s = .next t ∧ t.regs = u.regs ∧
        (t.cmdReady = true ↔ j = Config.cmdLatency (opField c)) ∧ acceptedBy (j + 1) s = [(c, d)]) ∧
  (∀ s t : State, s.stage = .running 0 → s.nextEvent.keepsRunning = true →
    stepWith (fun _ => 0) s = .next t → t.cmdReady = true)

/-- A command presented and held is accepted once, at the first edge with `cmd_ready = 1`, after exactly the busy cycles
that are left (R38, R39, R75). -/
def Obligations.HeldCommandAcceptedOnce : Prop :=
  ∀ (busy : Nat) (s : State) (c : Byte) (d : Word) (rest : List HostEvent), s.stage = .running busy →
    s.inputs = List.replicate (busy + 1) (.edge (PortIn.present c d)) ++ rest →
    acceptedBy busy s = [] ∧ acceptedBy (busy + 1) s = [(c, d)] ∧
    ∃ t u, run (busy + 1) s = .next t ∧ commandEffect c d s = .next u ∧ t.regs = u.regs ∧ t.inputs = rest ∧
      t.stage = .running (Config.cmdLatency (opField c))

/-- R49: the ports show the registers in every cycle with `cmd_ready = 1` of a block that has been reset, and in every
cycle after a reset edge. -/
def Obligations.PortsShowRegisters : Prop :=
  (∀ s : State, s.initialised = true → s.cmdReady = true → s.doutPort = s.regDout ∧ s.errPort = s.regErr) ∧
  (∀ (s t : State) (p : PortIn) (rest : List HostEvent), p.rst = true → s.inputs = .edge p :: rest →
    step s = .next t → t.doutPort = t.regDout ∧ t.errPort = t.regErr)

/-- After an acceptance the ports show that command's result from the first ready cycle on, and keep showing it as long as
the host presents nothing and does not reset (R76). -/
def Obligations.ResultVisibleWhenReady : Prop :=
  ∀ (n : Nat) (s : State) (c : Byte) (d : Word) (rest : List HostEvent), s.stage = .running 0 →
    s.inputs = .edge (PortIn.present c d) :: rest → Config.cmdLatency (opField c) ≤ n →
    (rest.take n).all HostEvent.idles = true →
    ∃ t u, run (n + 1) s = .next t ∧ commandEffect c d s = .next u ∧ t.cmdReady = true ∧
      t.doutPort = u.regDout ∧ t.errPort = u.regErr

/-- A host that issues a sequence of commands and waits out each latency gets, for every choice of the latencies, the same
registers: those of the commands' effects one after another (R6, R28, R75). -/
def Obligations.IssuedCommandsRunForEveryLatency : Prop :=
  ∀ (lat : BitVec 4 → Nat) (cs : List (Byte × Word)) (s : State) (rest : List HostEvent), s.stage = .running 0 →
    s.inputs = driveCommands lat cs ++ rest →
    ∃ t u, runWith lat (driveCommands lat cs).length s = .next t ∧ runCommands cs s = .next u ∧
      t.regs = u.regs ∧ t.stage = .running 0 ∧ t.inputs = rest

/-- The latencies change no register: one step gives the same registers for any two choices of them (R6). -/
def Obligations.LatencyChangesNoRegister : Prop :=
  ∀ (lat lat' : BitVec 4 → Nat) (s : State), ∃ t t', stepWith lat s = .next t ∧ stepWith lat' s = .next t' ∧
    t.regs = t'.regs

/-- The block is never stuck: every state has a next state (R62, R63). -/
def Obligations.EveryStepProceeds : Prop := ∀ s : State, ∃ t, step s = .next t

/-- Every step keeps the invariant: after a reset edge the registers hold the reset values (R71), and `cmd_ready` is held
low no longer than some opcode's latency (R75). -/
def Obligations.StepKeepsInvariant : Prop :=
  ∀ s t : State, s.Inv → step s = .next t → t.Inv

/-- The state after reset meets the invariant. -/
def Obligations.ResetMeetsInvariant : Prop := State.reset.Inv

/-- Over any run with no reset, the registers are those of the accepted commands' effects, one after another in the order
of acceptance (R28). -/
def Obligations.RunsFollowAcceptedCommands : Prop :=
  ∀ (n : Nat) (s t : State), s.initialised = true → s.undisturbed n = true → run n s = .next t →
    ∃ u, runCommands (acceptedBy n s) s = .next u ∧ t.regs = u.regs

/-- The assembled `CRC32` of any message, issued at a ready port, leaves the message's CRC on the port `dout`, with the
port ready and `ERR` as it was (R48, R61). -/
def Obligations.IssuedMessageGivesItsCrc : Prop :=
  ∀ (m : List Byte) (s : State) (rest : List HostEvent), s.stage = .running 0 →
    s.inputs = driveCommands Config.cmdLatency ((crc32Instrs m).map encode) ++ rest →
    ∃ t, run (driveCommands Config.cmdLatency ((crc32Instrs m).map encode)).length s = .next t ∧
      t.cmdReady = true ∧ t.doutPort = crcUpdate 0xFFFFFFFF#32 m ^^^ 0xFFFFFFFF#32 ∧ t.errPort = s.regErr ∧
      t.inputs = rest

/-- One reset edge, in any state before the first reset and right after a power gap, makes the block's registers what they
are after reset: nothing of the unspecified state is left (R73, R74, R69; assumption logs 5 and 6). -/
def Obligations.ResetRecoversFromPowerGap : Prop :=
  (∀ (s : State) (p : PortIn) (rest : List HostEvent), s.stage = .beforeReset → p.rst = true →
    s.inputs = .edge p :: rest →
    ∃ t, step s = .next t ∧ t.regs = resetRegValues ∧ t.stage = .afterReset) ∧
  (∀ (s : State) (p : PortIn) (rest : List HostEvent), p.rst = true → s.inputs = .powerGap :: .edge p :: rest →
    ∃ t u, step s = .next t ∧ t.stage = .beforeReset ∧ step t = .next u ∧ u.regs = resetRegValues ∧
      u.stage = .afterReset)

/-! ### The assembler and the host's byte stream (30_encoding.md, 20_memory.md) -/

/-- Every well-formed command has a line that assembles to its transaction; every line with a mnemonic or a
pseudo-instruction assembles to legal words only, so `.cmd` alone can write an illegal one (R47, R48). -/
def Obligations.AssemblerWritesLegalCommands : Prop :=
  (∀ i : Instr, i.wf = true → ∃ m size imm, assemble (.command m size imm) = .ok [encode i]) ∧
  (∀ (line : AsmLine) (cs : List (Byte × Word)), (∀ c d, line ≠ .raw c d) → assemble line = .ok cs →
    ∀ p ∈ cs, ∃ i : Instr, i.wf = true ∧ encode i = p ∧ legal p.1 = true)

/-- CRCBYTES feeds its message, in order, in one command for each four bytes and one for what is left over (R48). -/
def Obligations.CrcBytesFeedsItsMessage : Prop :=
  ∀ m : List Byte,
    fedMessage ((crcBytesInstrs m).map encode) = m ∧ (crcBytesInstrs m).length = (m.length + 3) / 4 ∧
    keepsComputation ((crcBytesInstrs m).map encode) = true ∧ ∀ i ∈ crcBytesInstrs m, i.wf = true

/-- R32: UPDATE.4 of a `u32` value and UPDATE.2 of a `u16` value fold in the field's little-endian file bytes, and
`UPDATE.3 #0x00444655` folds in the marker "UFD". -/
def Obligations.FieldsAreFedLittleEndian : Prop :=
  (∀ (v : Word) (s : State), exec (.update 3#2 v) s = .next { s with regS := crcUpdate s.regS (le32 v) }) ∧
  (∀ (v : BitVec 16) (s : State),
    exec (.update 1#2 (v.setWidth 32)) s = .next { s with regS := crcUpdate s.regS (le16 v) }) ∧
  (∀ s : State, exec (.update 2#2 0x00444655#32) s =
    .next { s with regS := crcUpdate s.regS [0x55#8, 0x46#8, 0x44#8] })

/-- The lengths of the CRC domain and of the file, for the record layout read from the worked file (20_memory.md section 5;
assumption log 13). -/
def Obligations.CrcDomainLength : Prop :=
  ∀ f : DfuFile,
    fileSizeField f = 11 + (f.images.map (fun img => 274 + totalElementSize img)).sum ∧
    (crcDomain f).length = fileSizeField f + 12 ∧ (fileBytes f).length = fileSizeField f + 16

/-- Both host sequences of 20_memory.md section 5 give the CRC of the bytes they cover: the write path over any split into
writes, and the construction path for the whole file after its last image. -/
def Obligations.HostPathsGiveTheChecksum : Prop :=
  (∀ (writes : List (List Byte)) (s : State),
    ∃ t, runCommands ((writePathInstrs writes).map encode) s = .next t ∧ t.regDout = crc32 writes.flatten) ∧
  (∀ (f : DfuFile) (added : List DfuImage) (s : State), added ≠ [] →
    ∃ t, runCommands ((addImagesInstrs f added).map encode) s = .next t ∧
      t.regDout = storedChecksum { f with images := f.images ++ added })
end

