-- ==== Sys2Proof/Laws/State.lean ====
section
/-! SUPPORT. One lemma per field per update of State, true by rfl, so that no proof unfolds a record update. -/

namespace Sys2Proof.Machine

@[simp] theorem State.setS_regS (s : State) (v : Word) : (s.setS v).regS = v := rfl
@[simp] theorem State.setS_regDout (s : State) (v : Word) : (s.setS v).regDout = s.regDout := rfl
@[simp] theorem State.setS_regErr (s : State) (v : Word) : (s.setS v).regErr = s.regErr := rfl
@[simp] theorem State.setS_stage (s : State) (v : Word) : (s.setS v).stage = s.stage := rfl
@[simp] theorem State.setS_inputs (s : State) (v : Word) : (s.setS v).inputs = s.inputs := rfl
@[simp] theorem State.setS_tick (s : State) (v : Word) : (s.setS v).tick = s.tick := rfl

@[simp] theorem State.setDout_regS (s : State) (v : Word) : (s.setDout v).regS = s.regS := rfl
@[simp] theorem State.setDout_regDout (s : State) (v : Word) : (s.setDout v).regDout = v := rfl
@[simp] theorem State.setDout_regErr (s : State) (v : Word) : (s.setDout v).regErr = s.regErr := rfl
@[simp] theorem State.setDout_stage (s : State) (v : Word) : (s.setDout v).stage = s.stage := rfl
@[simp] theorem State.setDout_inputs (s : State) (v : Word) : (s.setDout v).inputs = s.inputs := rfl
@[simp] theorem State.setDout_tick (s : State) (v : Word) : (s.setDout v).tick = s.tick := rfl

@[simp] theorem State.setErr_regS (s : State) : (s.setErr).regS = s.regS := rfl
@[simp] theorem State.setErr_regDout (s : State) : (s.setErr).regDout = s.regDout := rfl
@[simp] theorem State.setErr_regErr (s : State) : (s.setErr).regErr = 1#1 := rfl
@[simp] theorem State.setErr_stage (s : State) : (s.setErr).stage = s.stage := rfl
@[simp] theorem State.setErr_inputs (s : State) : (s.setErr).inputs = s.inputs := rfl
@[simp] theorem State.setErr_tick (s : State) : (s.setErr).tick = s.tick := rfl

@[simp] theorem State.advance_regS (s : State) : (s.advance).regS = s.regS := rfl
@[simp] theorem State.advance_regDout (s : State) : (s.advance).regDout = s.regDout := rfl
@[simp] theorem State.advance_regErr (s : State) : (s.advance).regErr = s.regErr := rfl
@[simp] theorem State.advance_stage (s : State) : (s.advance).stage = s.stage := rfl
@[simp] theorem State.advance_inputs (s : State) : (s.advance).inputs = s.inputs.tail := rfl
@[simp] theorem State.advance_tick (s : State) : (s.advance).tick = s.tick + 1 := rfl

@[simp] theorem State.setStage_regS (s : State) (g : Stage) : (s.setStage g).regS = s.regS := rfl
@[simp] theorem State.setStage_regDout (s : State) (g : Stage) : (s.setStage g).regDout = s.regDout := rfl
@[simp] theorem State.setStage_regErr (s : State) (g : Stage) : (s.setStage g).regErr = s.regErr := rfl
@[simp] theorem State.setStage_stage (s : State) (g : Stage) : (s.setStage g).stage = g := rfl
@[simp] theorem State.setStage_inputs (s : State) (g : Stage) : (s.setStage g).inputs = s.inputs := rfl
@[simp] theorem State.setStage_tick (s : State) (g : Stage) : (s.setStage g).tick = s.tick := rfl

@[simp] theorem State.resetRegs_regS (s : State) : (s.resetRegs).regS = Config.initState := rfl
@[simp] theorem State.resetRegs_regDout (s : State) : (s.resetRegs).regDout = 0#32 := rfl
@[simp] theorem State.resetRegs_regErr (s : State) : (s.resetRegs).regErr = 0#1 := rfl
@[simp] theorem State.resetRegs_stage (s : State) : (s.resetRegs).stage = s.stage := rfl
@[simp] theorem State.resetRegs_inputs (s : State) : (s.resetRegs).inputs = s.inputs := rfl
@[simp] theorem State.resetRegs_tick (s : State) : (s.resetRegs).tick = s.tick := rfl

@[simp] theorem State.freeRegs_regS (s : State) : (s.freeRegs).regS = Config.unresetS s.tick := rfl
@[simp] theorem State.freeRegs_regDout (s : State) : (s.freeRegs).regDout = Config.unresetDout s.tick := rfl
@[simp] theorem State.freeRegs_regErr (s : State) : (s.freeRegs).regErr = Config.unresetErr s.tick := rfl
@[simp] theorem State.freeRegs_stage (s : State) : (s.freeRegs).stage = s.stage := rfl
@[simp] theorem State.freeRegs_inputs (s : State) : (s.freeRegs).inputs = s.inputs := rfl
@[simp] theorem State.freeRegs_tick (s : State) : (s.freeRegs).tick = s.tick := rfl

end Sys2Proof.Machine
end

