-- ==== Sys2Proof/Laws/Ops.lean ====
section
/-! SUPPORT. What the shared operations over registers and bytes can do, said once. -/

namespace Sys2Proof.Machine

@[simp] theorem crcUpdate_nil (s : Word) : crcUpdate s [] = s := rfl

@[simp] theorem crcUpdate_cons (s : Word) (b : Byte) (m : List Byte) :
    crcUpdate s (b :: m) = crcUpdate (crcByte s b) m := rfl

/-- The bytes of a message fold one after another, so a fold over two parts is a fold over the first, then the second. -/
theorem crcUpdate_append (s : Word) (m₁ m₂ : List Byte) :
    crcUpdate s (m₁ ++ m₂) = crcUpdate (crcUpdate s m₁) m₂ := by
  induction m₁ generalizing s with
  | nil => rfl
  | cons b m₁ ih => simp [ih]

@[simp] theorem packBytes_nil : packBytes [] = 0#32 := rfl

@[simp] theorem packBytes_cons (b : Byte) (m : List Byte) :
    packBytes (b :: m) = b.setWidth 32 ||| (packBytes m <<< 8) := rfl

@[simp] theorem raiseIllegalCommand_eq (s : State) : raiseIllegalCommand s = s.setErr := rfl

/-- UPDATE's bytes, by its count field: the low bytes of the operand word, the lowest first. -/
theorem updateBytes_cases (n : BitVec 2) (v : Word) :
    (n = 0#2 ∧ updateBytes n v = [byteOf 0 v]) ∨
    (n = 1#2 ∧ updateBytes n v = [byteOf 0 v, byteOf 1 v]) ∨
    (n = 2#2 ∧ updateBytes n v = [byteOf 0 v, byteOf 1 v, byteOf 2 v]) ∨
    (n = 3#2 ∧ updateBytes n v = [byteOf 0 v, byteOf 1 v, byteOf 2 v, byteOf 3 v]) := by
  have hn : n = 0#2 ∨ n = 1#2 ∨ n = 2#2 ∨ n = 3#2 := by revert n; decide
  rcases hn with rfl | rfl | rfl | rfl
  · exact .inl ⟨rfl, rfl⟩
  · exact .inr (.inl ⟨rfl, rfl⟩)
  · exact .inr (.inr (.inl ⟨rfl, rfl⟩))
  · exact .inr (.inr (.inr ⟨rfl, rfl⟩))

/-- What the effect of an accepted command can be: the effect of the decoded command, or `ERR` set and nothing else. -/
theorem commandEffect_cases {c : Byte} {d : Word} {s t : State} (h : commandEffect c d s = .next t) :
    (∃ i, decode c d = .instr i ∧ exec i s = .next t) ∨ (∃ w, decode c d = .illegal w ∧ t = s.setErr) := by
  unfold commandEffect at h
  split at h
  · exact .inl ⟨_, ‹_›, h⟩
  · injection h with h
    exact .inr ⟨_, ‹_›, h.symm⟩

/-- Every command changes registers only: the handshake, the host's events and the cycle counter stay. -/
theorem exec_keeps_port {i : Instr} {s t : State} (h : exec i s = .next t) :
    t.stage = s.stage ∧ t.inputs = s.inputs ∧ t.tick = s.tick := by
  cases i <;> (injection h with h; subst h; exact ⟨rfl, rfl, rfl⟩)

/-- The same of every accepted command word, legal or not. -/
theorem commandEffect_keeps_port {c : Byte} {d : Word} {s t : State} (h : commandEffect c d s = .next t) :
    t.stage = s.stage ∧ t.inputs = s.inputs ∧ t.tick = s.tick := by
  obtain ⟨i, -, h⟩ | ⟨w, -, rfl⟩ := commandEffect_cases h
  · exact exec_keeps_port h
  · exact ⟨rfl, rfl, rfl⟩

end Sys2Proof.Machine
end

