-- ==== Sys2Proof/Laws/Edge.lean ====
section
/-! SUPPORT. What one step can do, said once, and the equations of a run. -/

namespace Sys2Proof.Machine

/-- An acceptance is the command's effect, then the busy cycles of its opcode. -/
theorem acceptEdge_next {lat : BitVec 4 → Nat} {c : Byte} {d : Word} {s t : State}
    (h : acceptEdge lat c d s = .next t) : ∃ u, commandEffect c d s = .next u ∧ t = u.afterAccept lat c := by
  unfold acceptEdge at h
  split at h
  · injection h with h
    exact ⟨_, ‹_›, h.symm⟩
  · cases h
  · cases h

/-- What a rising edge can do: reset, an edge before the first reset, an acceptance, or an edge that changes no
register. -/
theorem edgeWith_next {lat : BitVec 4 → Nat} {p : PortIn} {s t : State} (h : edgeWith lat p s = .next t) :
    (p.rst = true ∧ t = s.resetEdge) ∨
    (p.rst = false ∧ s.stage = .beforeReset ∧ t = s.unresetEdge) ∨
    (p.rst = false ∧ s.stage ≠ .beforeReset ∧ s.accepts p = true ∧
      ∃ u, commandEffect p.cmd p.din s = .next u ∧ t = u.afterAccept lat p.cmd) ∨
    (p.rst = false ∧ s.stage ≠ .beforeReset ∧ s.accepts p = false ∧ t = s.quietEdge) := by
  unfold edgeWith at h
  split at h
  · injection h with h
    exact .inl ⟨‹_›, h.symm⟩
  · have hr : p.rst = false := by simpa using ‹¬p.rst = true›
    split at h
    · injection h with h
      exact .inr (.inl ⟨hr, ‹_›, h.symm⟩)
    · split at h
      · exact .inr (.inr (.inl ⟨hr, ‹_›, ‹_›, acceptEdge_next h⟩))
      · injection h with h
        exact .inr (.inr (.inr ⟨hr, ‹_›, by simpa using ‹¬s.accepts p = true›, h.symm⟩))

/-- What a step can do: a power gap, or one of the four kinds of edge. -/
theorem stepWith_next {lat : BitVec 4 → Nat} {s t : State} (h : stepWith lat s = .next t) :
    (s.nextEvent = .powerGap ∧ t = s.losePower) ∨ ∃ p, s.nextEvent = .edge p ∧ edgeWith lat p s = .next t := by
  unfold stepWith at h
  split at h
  · exact .inr ⟨_, ‹_›, h⟩
  · injection h with h
    exact .inl ⟨‹_›, h.symm⟩

@[simp] theorem runWith_zero (lat : BitVec 4 → Nat) (s : State) : runWith lat 0 s = .next s := rfl

/-- A run of one step more, once its first step is known. -/
theorem runWith_succ {lat : BitVec 4 → Nat} {s t : State} (n : Nat) (h : stepWith lat s = .next t) :
    runWith lat (n + 1) s = runWith lat n t := by
  simp only [runWith, h]

@[simp] theorem nextEvent_cons (s : State) (e : HostEvent) (rest : List HostEvent) (h : s.inputs = e :: rest) :
    s.nextEvent = e := by
  simp [State.nextEvent, h]

@[simp] theorem cmdReady_running (s : State) (busy : Nat) (h : s.stage = .running busy) :
    s.cmdReady = (busy == 0) := by
  simp [State.cmdReady, h]

@[simp] theorem cmdReady_afterReset (s : State) (h : s.stage = .afterReset) : s.cmdReady = false := by
  simp [State.cmdReady, h]

end Sys2Proof.Machine
end

