-- ==== Sys2Proof/Laws/PerInstr.lean ====
section
/-! SUPPORT. Statements made per command: one family, one lemma per constructor of Instr. -/

namespace Sys2Proof.Laws.EncodedWordLegal

/-- The command word the encoder writes is one of the legal words, and its reserved field is 00 (R41, R43). -/
def Statement (i : Instr) : Prop := legal (encode i).1 = true ∧ rsvField (encode i).1 = 0#2

theorem nop : Statement .nop := by unfold Statement; decide

theorem init : Statement .init := by unfold Statement; decide

theorem load (v : Word) : Statement (.load v) := by
  show legal 0x20#8 = true ∧ rsvField 0x20#8 = 0#2
  decide

theorem update (n : BitVec 2) (v : Word) : Statement (.update n v) := by
  have h : ∀ n : BitVec 2,
      legal (0x30#8 ||| n.setWidth 8) = true ∧ rsvField (0x30#8 ||| n.setWidth 8) = 0#2 := by decide
  exact h n

theorem rdstate : Statement .rdstate := by unfold Statement; decide

theorem final : Statement .final := by unfold Statement; decide

theorem rdtab (i : Byte) : Statement (.rdtab i) := by
  show legal 0x60#8 = true ∧ rsvField 0x60#8 = 0#2
  decide

end Sys2Proof.Laws.EncodedWordLegal
end

