-- ==== Sys2Proof/Laws/Table.lean ====
section
/-! SUPPORT. The shift register of R17 and R57 is linear over XOR, one step and any number of steps. -/

namespace Sys2Proof.Machine

/-- One step of the shift register is linear: the reason R19 gives for the linearity of `T`. -/
theorem shiftStep_xor (a b : Word) : shiftStep (a ^^^ b) = shiftStep a ^^^ shiftStep b := by
  have h (c : Word) : shiftStep c = (c >>> 1) ^^^ (if c.getLsbD 0 then Config.poly else 0#32) := by
    unfold shiftStep; split <;> simp
  rw [h, h a, h b, BitVec.ushiftRight_xor_distrib, BitVec.getLsbD_xor]
  have x (u v p q : Word) : (u ^^^ v) ^^^ (p ^^^ q) = (u ^^^ p) ^^^ (v ^^^ q) := by ac_rfl
  rw [← x]
  congr 1
  cases a.getLsbD 0 <;> cases b.getLsbD 0 <;> simp

/-- Any number of steps of the shift register is linear. -/
theorem shiftSteps_xor (k : Nat) (a b : Word) : shiftSteps k (a ^^^ b) = shiftSteps k a ^^^ shiftSteps k b := by
  induction k generalizing a b with
  | zero => rfl
  | succ k ih => simp only [shiftSteps, shiftStep_xor, ih]

/-- Steps taken in two parts. -/
theorem shiftSteps_add (j k : Nat) (c : Word) : shiftSteps (j + k) c = shiftSteps k (shiftSteps j c) := by
  induction j generalizing c with
  | zero => simp [shiftSteps]
  | succ j ih => simp only [Nat.succ_add, shiftSteps, ih]

end Sys2Proof.Machine
end

