-- ==== Sys2Proof/Tests/Slice0.lean ====
section
/-! SUPPORT. Small tests: words written out from the encoding tables, ill-formed terms, one step per command with values of
95_test_vectors.md, the assembler's lines, and a witness for the hypotheses of each statement that has any. -/

namespace Sys2Proof.Tests

open Sys2Proof Sys2Proof.Machine

/-! ### Helpers -/

/-- A ready block with these registers and host events. -/
def ready (s d : Word) (e : BitVec 1) (inputs : List HostEvent) : State where
  regS := s
  regDout := d
  regErr := e
  stage := .running 0
  inputs := inputs
  tick := 0

/-- An edge that presents a command. -/
def present (c : Byte) (d : Word) : HostEvent := .edge (PortIn.present c d)

/-- An edge with `rst = 1` and a command presented. -/
def resetPort (c : Byte) : PortIn := { PortIn.present c 0#32 with rst := true }

/-- Whether an outcome is a next state that a test accepts. -/
def yields (o : Host.Outcome State Fault Refusal) (test : State → Bool) : Bool :=
  match o with
  | .next s => test s
  | _ => false

/-! ### Decoding: words written out from R42 and the opcode table -/

theorem test_decode_nop : decode 0b00000000#8 0xFFFFFFFF#32 = .instr .nop := by decide

theorem test_decode_init : decode 0b00010000#8 0xDEADBEEF#32 = .instr .init := by decide

theorem test_decode_load : decode 0b00100000#8 0x641C1F5C#32 = .instr (.load 0x641C1F5C#32) := by decide

theorem test_decode_update1 : decode 0b00110000#8 0xFFFFFF61#32 = .instr (.update 0#2 0x00000061#32) := by decide

theorem test_decode_update4 : decode 0b00110011#8 0x34333231#32 = .instr (.update 3#2 0x34333231#32) := by decide

theorem test_decode_rdstate : decode 0b01000000#8 0x00000000#32 = .instr .rdstate := by decide

theorem test_decode_final : decode 0b01010000#8 0x00000000#32 = .instr .final := by decide

theorem test_decode_rdtab : decode 0b01100000#8 0xFFFFFF01#32 = .instr (.rdtab 0x01#8) := by decide

/-- The illegal words of 95_test_vectors.md 2.5, each refused by name. -/
theorem test_decode_illegal :
    [0x01#8, 0x04#8, 0x08#8, 0x11#8, 0x23#8, 0x34#8, 0x3F#8, 0x41#8, 0x5C#8, 0x62#8, 0x70#8, 0x80#8, 0xFF#8].map
      (decode · 0xFFFFFFFF#32) =
    [.illegal .countBits, .illegal .reservedBits, .illegal .reservedBits, .illegal .countBits, .illegal .countBits,
      .illegal .reservedBits, .illegal .reservedBits, .illegal .countBits, .illegal .reservedBits, .illegal .countBits,
      .illegal .reservedOpcode, .illegal .reservedOpcode, .illegal .reservedOpcode] := by decide

/-- The numbering of a table word: `cmd` in bits 7..0, `din` above it, zero where the table gives no bits. -/
theorem test_table_word :
    decodeTableWord 8 0x33 = some (.update 3#2 0#32) ∧
    decodeTableWord 40 0x3433323133 = some (.update 3#2 0x34333231#32) ∧ decodeTableWord 8 0x11 = none := by decide

/-! ### Well-formedness: an UPDATE whose operand is wider than its bytes is refused -/

theorem test_wf_refuses_wide_update1 : (Instr.update 0#2 0x100#32).wf = false := by decide

theorem test_wf_refuses_wide_update3 : (Instr.update 2#2 0x01000000#32).wf = false := by decide

theorem test_wf_accepts_full_update : (Instr.update 0#2 0xFF#32).wf = true ∧ (Instr.update 3#2 0xFFFFFFFF#32).wf = true := by
  decide

/-! ### The table and the one-byte step (95_test_vectors.md 2.1, 2.3) -/

theorem test_table_entries :
    [0x01#8, 0x02#8, 0x10#8, 0x5A#8, 0x7F#8, 0x80#8, 0xA5#8, 0xFE#8, 0xFF#8].map tabRead =
    [0x77073096#32, 0xEE0E612C#32, 0x1DB71064#32, 0x8BBEB8EA#32, 0xC0BA6CAD#32, 0xEDB88320#32, 0xA6BC5767#32,
      0x5A05DF1B#32, 0x2D02EF8D#32] := by decide

theorem test_crc_byte :
    crcByte 0xFFFFFFFF#32 0x00#8 = 0x2DFD1072#32 ∧ crcByte 0x80000000#32 0x00#8 = 0x00800000#32 ∧
    crcByte 0x12345678#32 0x00#8 = 0x5ECCCD58#32 ∧ crcByte 0xDEADBEEF#32 0x42#8 = 0xA8B972EB#32 := by decide

/-! ### One step for each command (95_test_vectors.md 2.2 to 2.5) -/

theorem test_nop_step : yields (step (ready 0x12345678#32 0xCBF43926#32 1#1 [present 0x00#8 0xFFFFFFFF#32]))
    (·.regs == (0x12345678#32, 0xCBF43926#32, 1#1)) = true := by decide

theorem test_init_step : yields (step (ready 0x340BC6D9#32 7#32 1#1 [present 0x10#8 0xDEADBEEF#32]))
    (·.regs == (0xFFFFFFFF#32, 7#32, 1#1)) = true := by decide

theorem test_load_step : yields (step (ready 0#32 7#32 0#1 [present 0x20#8 0x641C1F5C#32]))
    (·.regs == (0x641C1F5C#32, 7#32, 0#1)) = true := by decide

theorem test_update4_step : yields (step (ready 0x12345678#32 7#32 0#1 [present 0x33#8 0xEFBEADDE#32]))
    (·.regs == (0xD3F12488#32, 7#32, 0#1)) = true := by decide

theorem test_update2_step : yields (step (ready 0xFFFFFFFF#32 7#32 0#1 [present 0x31#8 0xAB003231#32]))
    (·.regs == (0xB0ACBB32#32, 7#32, 0#1)) = true := by decide

theorem test_rdstate_step : yields (step (ready 0x641C1F5C#32 7#32 0#1 [present 0x40#8 0#32]))
    (·.regs == (0x641C1F5C#32, 0x641C1F5C#32, 0#1)) = true := by decide

theorem test_final_step : yields (step (ready 0x340BC6D9#32 7#32 0#1 [present 0x50#8 0#32]))
    (·.regs == (0x340BC6D9#32, 0xCBF43926#32, 0#1)) = true := by decide

theorem test_rdtab_step : yields (step (ready 5#32 7#32 0#1 [present 0x60#8 0xFFFFFF01#32]))
    (·.regs == (5#32, 0x77073096#32, 0#1)) = true := by decide

theorem test_illegal_step : yields (step (ready 0xB0ACBB32#32 0x12345678#32 0#1 [present 0x11#8 0#32]))
    (·.regs == (0xB0ACBB32#32, 0x12345678#32, 1#1)) = true := by decide

/-! ### Reset, handshake and ports (95_test_vectors.md 2.6) -/

/-- Cycle 0 to 1: the reset edge, from power-up, with FINAL presented. -/
theorem test_reset_edge : yields (step (State.powerUp [.edge (resetPort 0x50#8)] 3))
    (fun t => t.regs == resetRegValues && !t.cmdReady && t.doutPort == 0#32 && t.errPort == 0#1) = true := by decide

/-- Cycle 1 to 2: nothing is accepted right after reset, and the block is ready then. -/
theorem test_leaving_reset : yields (step { State.reset with inputs := [present 0x50#8 0#32] })
    (fun t => t.regs == resetRegValues && t.cmdReady) = true := by decide

/-- With a latency of 2, `cmd_ready` is 0 in the cycle after an UPDATE and a command presented there is ignored. -/
theorem test_busy_ignores_command :
    yields (stepWith (fun _ => 2) (ready 0xFFFFFFFF#32 0#32 0#1 [present 0x33#8 0x34333231#32, present 0x10#8 0#32]))
      (fun t => !t.cmdReady && yields (stepWith (fun _ => 2) t) (fun u => u.regS == 0x641C1F5C#32 && !u.cmdReady)) = true := by
  decide

/-- After a power gap the block stands before its first reset again. -/
theorem test_power_gap : yields (step (ready 1#32 2#32 0#1 [.powerGap])) (·.stage == .beforeReset) = true := by decide

/-- A table word placed after reset is run by the very next step. -/
theorem test_fetch_word : yields (step (State.reset.withFetchWord 8 0x30)) (·.regS == 0x2DFD1072#32) = true := by decide

/-! ### The assembler (R47, R48) -/

theorem test_asm_update : assembleText "UPDATE.4 #0x34333231 ; 1234".toList = .ok [(0x33#8, 0x34333231#32)] := by decide

theorem test_asm_raw : assembleText ".cmd 0x70, 0xFFFFFFFF".toList = .ok [(0x70#8, 0xFFFFFFFF#32)] := by decide

theorem test_asm_crc32 : assembleText "CRC32 0x31, 50".toList =
    .ok [(0x10#8, 0#32), (0x31#8, 0x3231#32), (0x50#8, 0#32)] := by decide

theorem test_asm_refuses : [("NOP #1", AsmError.operandNotAllowed), ("LOAD", .operandMissing), ("UPDATE #3", .sizeMissing),
    ("UPDATE.2 #65536", .immediateTooWide), ("RDTAB #256", .immediateTooWide)].all
      (fun p => decide (assembleText p.1.toList = .error p.2)) = true := by decide

/-! ### The host's byte stream (95_test_vectors.md P3) -/

/-- The worked file of REV-DFUSE §8. -/
def workedFile : DfuFile where
  deviceVersion := 0x0100#16
  product := 0x5678#16
  vendor := 0x1234#16
  images := [{
    altSetting := 0#8, named := 1#32, name := [0x41#8, 0x70#8, 0x70#8],
    targets := [{ address := 0x08000000#32, payload := [0xDE#8, 0xAD#8, 0xBE#8, 0xEF#8] }] }]

theorem test_worked_file_size : fileSizeField workedFile = 297 := by decide

/-- The last bytes of the CRC domain, offsets 0x11D to 0x134. -/
theorem test_worked_file_tail : (crcDomain workedFile).drop 0x11D =
    [0x00#8, 0x00#8, 0x00#8, 0x08#8, 0x04#8, 0x00#8, 0x00#8, 0x00#8, 0xDE#8, 0xAD#8, 0xBE#8, 0xEF#8,
      0x00#8, 0x01#8, 0x78#8, 0x56#8, 0x34#8, 0x12#8, 0x1A#8, 0x01#8, 0x55#8, 0x46#8, 0x44#8, 0x10#8] := by
  decide +kernel

/-! ### Witnesses: the hypotheses of each statement can be met, each clause at a boundary -/

/-- A sequence with a split message, an illegal word and a read between. -/
def chain : List (Byte × Word) := [(0x31#8, 0x3231#32), (0x70#8, 5#32), (0x40#8, 0#32), (0x31#8, 0x3433#32)]

/-- The same message in one command. -/
def chainWhole : List (Byte × Word) := [(0x33#8, 0x34333231#32)]

theorem witness_DecodeEncodeRoundTrip : (Instr.update 2#2 0x00FFFFFF#32).wf = true := by decide

theorem witness_EncodeDecodeCanonical : decode 0x32#8 0xFF333231#32 = .instr (.update 2#2 0x00333231#32) ∧
    23 < usedDinBits 0x32#8 ∧ usedDinBits 0x32#8 ≤ 24 := by decide

theorem witness_LegalWordsAreTheTen : legal 0x70#8 = false ∧ legal 0x61#8 = false ∧ legal 0x34#8 = false := by decide

theorem witness_ReservedSpaceRaises :
    7 ≤ (opField 0x70#8).toNat ∧ rsvField 0x34#8 ≠ 0#2 ∧ (opField 0x63#8 ≠ 3#4 ∧ countField 0x63#8 ≠ 0#2) := by decide

theorem witness_UnusedDinBitsAreIgnored :
    (ready 1#32 2#32 0#1 []).initialised = true ∧
    (∀ k, k < usedDinBits 0x31#8 → (0xAB003231#32).getLsbD k = (0x00003231#32).getLsbD k) ∧ legal 0x71#8 = false := by decide

theorem witness_OpcodeMapEffects : legal 0x01#8 = false ∧ legal 0x34#8 = false ∧ legal 0x62#8 = false ∧
    legal 0x70#8 = false ∧ legal 0xFF#8 = false := by decide

theorem witness_NopRule :
    (opField 0x04#8 = 0#4 ∧ rsvField 0x04#8 ≠ 0#2) ∧ (opField 0x01#8 = 0#4 ∧ countField 0x01#8 ≠ 0#2) := by decide

theorem witness_InitRule : State.reset.regS = 0xFFFFFFFF#32 := by decide

theorem witness_UpdateRule : (ready 0#32 0#32 0#1 []).regS = 0#32 ∧ State.reset.regS = 0xFFFFFFFF#32 ∧
    ∀ k, k < 8 * ((2#2).toNat + 1) → (0xFF333231#32).getLsbD k = (0x00333231#32).getLsbD k := by decide

theorem witness_FinalRule : (ready 0#32 0#32 0#1 []).regS = 0x00000000#32 := by decide

theorem witness_LegalCommandsNeverRaise : legal 0x33#8 = true := by decide

theorem witness_ChainingOverAnySplit : keepsComputation chain = true ∧ keepsComputation chainWhole = true ∧
    fedMessage chain = fedMessage chainWhole := by decide

theorem witness_FreestandingComputation :
    keepsComputation chain = true ∧ fedMessage chain = [0x31#8, 0x32#8, 0x33#8, 0x34#8] := by decide

theorem witness_SaveAndResume : keepsComputation chain = true ∧
    (ready 0x641C1F5C#32 0#32 0#1 []).regS = crcUpdate 0xFFFFFFFF#32 [0x31#8, 0x32#8, 0x33#8, 0x34#8] := by decide

theorem witness_DoubleXorHazard : keepsComputation chainWhole = true ∧ ∀ p ∈ chainWhole, legal p.1 = true :=
  ⟨by decide, fun p hp => by rw [List.mem_singleton.mp hp]; decide⟩

theorem witness_ForgottenInitConcatenates : keepsComputation chain = true ∧ keepsComputation chainWhole = true := by decide

theorem witness_IllegalCommandSetsErrOnly : legal 0x70#8 = false ∧ legal 0x33#8 = true ∧
    (ready 1#32 2#32 0#1 [present 0x70#8 9#32]).stage = .running 0 ∧
    (ready 1#32 2#32 0#1 [present 0x70#8 9#32]).inputs = .edge (PortIn.present 0x70#8 9#32) :: [] := by decide

/-- A run of one step from `ERR = 0` that accepts an illegal word. -/
theorem witness_ErrStaysUntilReset_sets :
    let s := ready 1#32 2#32 0#1 [present 0x70#8 9#32]
    s.initialised = true ∧ s.undisturbed 1 = true ∧ s.regErr = 0#1 ∧
      run 1 s = .next ⟨1#32, 2#32, 1#1, .running (Config.cmdLatency 7#4), [], 1⟩ := ⟨rfl, rfl, rfl, rfl⟩

/-- A run of one step from `ERR = 1` that accepts INIT. -/
theorem witness_ErrStaysUntilReset_stays :
    let s := ready 1#32 2#32 1#1 [present 0x10#8 9#32]
    s.initialised = true ∧ s.undisturbed 1 = true ∧ s.regErr = 1#1 ∧
      run 1 s = .next ⟨0xFFFFFFFF#32, 2#32, 1#1, .running (Config.cmdLatency 1#4), [], 1⟩ := ⟨rfl, rfl, rfl, rfl⟩

theorem witness_ResetTakesPrecedence : (resetPort 0x50#8).rst = true ∧ (resetPort 0x70#8).rst = true := by decide

theorem witness_ResetEdgeIsComplete : (resetPort 0x50#8).rst = true ∧
    (State.powerUp [.edge (resetPort 0x50#8)] 0).inputs = .edge (resetPort 0x50#8) :: [] := ⟨rfl, rfl⟩

theorem witness_LeavingResetTakesOneEdge :
    let s := { State.reset with inputs := [.edge PortIn.idle, present 0x50#8 0#32] }
    s.stage = .afterReset ∧ PortIn.idle.rst = false ∧
      s.inputs = .edge PortIn.idle :: .edge (PortIn.present 0x50#8 0#32) :: [] := by decide

theorem witness_AcceptanceExactly :
    let s := ready 1#32 2#32 0#1 [present 0x50#8 0#32]
    s.initialised = true ∧ s.inputs = .edge (PortIn.present 0x50#8 0#32) :: [] ∧
      s.accepts (PortIn.present 0x50#8 0#32) = true ∧
      s.accepts PortIn.idle = false ∧ PortIn.idle.rst = false := by decide

theorem witness_NotAcceptedHasNoEffect :
    State.reset.initialised = true ∧ State.reset.accepts (PortIn.present 0x50#8 0#32) = false ∧ State.reset.accepts PortIn.idle = false ∧
      (PortIn.present 0x50#8 0#32).rst = PortIn.idle.rst := by decide

theorem witness_StepRunsDecodedCommand :
    let s := ready 1#32 2#32 0#1 [present 0x50#8 0#32]
    s.stage = .running 0 ∧ s.inputs = .edge (PortIn.present 0x50#8 0#32) :: [] ∧
      decode 0x50#8 0#32 = .instr .final ∧ exec .final s = .next { s with regDout := 0xFFFFFFFE#32 } :=
  ⟨rfl, rfl, by decide, rfl⟩

theorem witness_LatencyThenReady :
    let s := ready 1#32 2#32 0#1 [present 0x50#8 0#32]
    s.stage = .running 0 ∧ s.inputs = .edge (PortIn.present 0x50#8 0#32) :: [] ∧
      (([] : List HostEvent).take (Config.cmdLatency (opField 0x50#8))).all HostEvent.keepsRunning = true ∧
      s.nextEvent.keepsRunning = true ∧
      stepWith (fun _ => 0) s = .next ⟨1#32, 0xFFFFFFFE#32, 0#1, .running 0, [], 1⟩ :=
  ⟨rfl, rfl, by simp, rfl, rfl⟩

theorem witness_HeldCommandAcceptedOnce :
    let s := { ready 1#32 2#32 0#1 (List.replicate 3 (present 0x50#8 0#32)) with stage := .running 2 }
    s.stage = .running 2 ∧ s.inputs = List.replicate (2 + 1) (.edge (PortIn.present 0x50#8 0#32)) ++ [] := by decide

theorem witness_PortsShowRegisters :
    let s := ready 1#32 2#32 0#1 [.edge (resetPort 0x50#8)]
    s.initialised = true ∧ s.cmdReady = true ∧ (resetPort 0x50#8).rst = true ∧
      s.inputs = .edge (resetPort 0x50#8) :: [] ∧
      step s = .next ⟨0xFFFFFFFF#32, 0#32, 0#1, .afterReset, [], 1⟩ := ⟨rfl, rfl, rfl, rfl, rfl⟩

theorem witness_ResultVisibleWhenReady :
    let s := ready 1#32 2#32 0#1 [present 0x50#8 0#32]
    s.stage = .running 0 ∧ s.inputs = .edge (PortIn.present 0x50#8 0#32) :: [] ∧
      Config.cmdLatency (opField 0x50#8) ≤ Config.cmdLatency (opField 0x50#8) ∧
      (([] : List HostEvent).take (Config.cmdLatency (opField 0x50#8))).all HostEvent.idles = true :=
  ⟨rfl, rfl, Nat.le_refl _, by simp⟩

theorem witness_IssuedCommandsRunForEveryLatency :
    let s := ready 1#32 2#32 0#1 (driveCommands (fun _ => 2) chain)
    s.stage = .running 0 ∧ s.inputs = driveCommands (fun _ => 2) chain ++ [] := by decide

theorem witness_StepKeepsInvariant : State.reset.Inv ∧
    step State.reset = .next { State.reset with stage := .running 0, tick := 1 } := ⟨rfl, rfl⟩

theorem witness_RunsFollowAcceptedCommands :
    let s := ready 1#32 2#32 0#1 [present 0x50#8 0#32]
    s.initialised = true ∧ s.undisturbed 1 = true ∧
      run 1 s = .next ⟨1#32, 0xFFFFFFFE#32, 0#1, .running (Config.cmdLatency 5#4), [], 1⟩ := ⟨rfl, rfl, rfl⟩

theorem witness_IssuedMessageGivesItsCrc :
    let cs := (crc32Instrs [0x31#8, 0x32#8]).map encode
    let s := ready 1#32 2#32 0#1 (driveCommands Config.cmdLatency cs)
    s.stage = .running 0 ∧ s.inputs = driveCommands Config.cmdLatency cs ++ [] := ⟨rfl, by simp [ready]⟩

theorem witness_ResetRecoversFromPowerGap : (resetPort 0x50#8).rst = true ∧
    (State.powerUp [.edge (resetPort 0x50#8)] 0).stage = .beforeReset ∧
    (State.powerUp [.edge (resetPort 0x50#8)] 0).inputs = .edge (resetPort 0x50#8) :: [] ∧
    (ready 1#32 2#32 0#1 [.powerGap, .edge (resetPort 0x50#8)]).inputs =
      .powerGap :: .edge (resetPort 0x50#8) :: [] := by decide

theorem witness_AssemblerWritesLegalCommands : (Instr.load 5#32).wf = true ∧
    (∀ c d, AsmLine.crc32 [0x31] ≠ .raw c d) ∧
    assemble (.crc32 [0x31]) = .ok [(0x10#8, 0#32), (0x30#8, 0x31#32), (0x50#8, 0#32)] :=
  ⟨by decide, by simp, by decide⟩

theorem witness_HostPathsGiveTheChecksum : workedFile.images ≠ [] := by decide

end Sys2Proof.Tests
end

section
/-! The registers after a reset edge (R14), one lemma per register. -/

namespace Sys2Proof.Machine

@[simp] theorem State.resetEdge_regS (s : State) : s.resetEdge.regS = Config.initState := by
  rw [State.resetEdge, State.setStage_regS, State.resetRegs_regS]

@[simp] theorem State.resetEdge_regDout (s : State) : s.resetEdge.regDout = 0#32 := by
  rw [State.resetEdge, State.setStage_regDout, State.resetRegs_regDout]

@[simp] theorem State.resetEdge_regErr (s : State) : s.resetEdge.regErr = 0#1 := by
  rw [State.resetEdge, State.setStage_regErr, State.resetRegs_regErr]

/-- Settles O31: the reset state is a literal with the values of R14, and a reset edge writes the same three values over
whatever the registers held. -/
theorem resetRegisterValues : Obligations.ResetRegisterValues := by
  refine ⟨rfl, rfl, rfl, fun s => ⟨?regS, ?regDout, ?regErr⟩⟩
  case regS => exact s.resetEdge_regS
  case regDout => exact s.resetEdge_regDout
  case regErr => exact s.resetEdge_regErr

end Sys2Proof.Machine
end

section
/-! The table's listing, anchors and linearity (R18, R19), and the order of UPDATE's bytes (R22). -/

namespace Sys2Proof.Machine

/-- `TabRead` is linear: zero extension is, and so are the eight steps of R17. -/
theorem tabRead_xor (i j : Byte) : tabRead (i ^^^ j) = tabRead i ^^^ tabRead j := by
  simp only [tabRead, BitVec.setWidth_xor, shiftSteps_xor]

/-- Settles O17: the anchors are eight steps each, and linearity is that of the shift register. -/
theorem tableAnchorsAndLinearity : Obligations.TableAnchorsAndLinearity := by
  refine ⟨?zero, ?poly, tabRead_xor⟩
  case zero => decide
  case poly => decide

/-- The listing of R18 is `TabRead` of every index in ascending order. -/
theorem tableListing_eq_map_tabRead :
    tableListing = (List.range Config.tableSize).map (fun k => tabRead (BitVec.ofNat 8 k)) := by
  decide +kernel

/-- Settles O16: the listing is computed from R17 as a whole, and entry `i` is read off that list. -/
theorem tableMatchesListing : Obligations.TableMatchesListing := by
  refine ⟨rfl, ?length, fun i => ?entry⟩
  case length => rw [tableListing_eq_map_tabRead, List.length_map, List.length_range]
  case entry =>
    have hi : i.toNat < Config.tableSize := i.isLt
    rw [tableListing_eq_map_tabRead, List.getElem?_map, List.getElem?_range hi, Option.map_some,
      BitVec.ofNat_toNat, BitVec.setWidth_eq]

/-- UPDATE's bytes are a prefix of the little-endian serialization of its operand word (R22). -/
theorem updateBytes_eq_take_le32 (n : BitVec 2) (v : Word) : updateBytes n v = (le32 v).take (n.toNat + 1) := by
  have hn : n.toNat + 1 ≤ 4 := n.isLt
  calc updateBytes n v
      = ((List.range 4).take (n.toNat + 1)).map (byteOf · v) := by
        rw [List.take_range, Nat.min_eq_left hn, updateBytes]
    _ = (le32 v).take (n.toNat + 1) := List.map_take

/-- Settles O21: `le32` lists the four byte fields of `din` from `din[7:0]` up, and UPDATE takes the first `n + 1`. -/
theorem updateBytesAreLittleEndian : Obligations.UpdateBytesAreLittleEndian :=
  ⟨updateBytes_eq_take_le32, updateBytes_eq_take_le32 3#2⟩

end Sys2Proof.Machine
end

section
/-! The command words (R41 to R46): which are legal, what the decoder reads from each, which bits of `din` it uses. -/

namespace Sys2Proof

/-- The ten words listed under R43. -/
theorem legal_iff_mem (c : Byte) : legal c = true ↔
    c ∈ [0x00#8, 0x10#8, 0x20#8, 0x30#8, 0x31#8, 0x32#8, 0x33#8, 0x40#8, 0x50#8, 0x60#8] := by
  revert c; decide

/-- The legal words by row of the opcode table (R42); UPDATE's row has one word for each byte count. -/
theorem legal_cases {c : Byte} (h : legal c = true) :
    c = 0x00#8 ∨ c = 0x10#8 ∨ c = 0x20#8 ∨ (∃ n : BitVec 2, c = 0x30#8 ||| n.setWidth 8) ∨
      c = 0x40#8 ∨ c = 0x50#8 ∨ c = 0x60#8 := by
  revert c; decide

/-- The illegal words are the reserved space of R46. -/
theorem legal_eq_false_iff (c : Byte) : legal c = false ↔
    7 ≤ (opField c).toNat ∨ rsvField c ≠ 0#2 ∨ (opField c ≠ 3#4 ∧ countField c ≠ 0#2) := by
  simp only [legal, Bool.and_eq_false_iff, Bool.or_eq_false_iff, decide_eq_false_iff_not, beq_eq_false_iff_ne,
    Nat.not_le, or_assoc]
  rfl

@[simp] theorem decode_nopWord (d : Word) : decode 0x00#8 d = .instr .nop := rfl
@[simp] theorem decode_initWord (d : Word) : decode 0x10#8 d = .instr .init := rfl
@[simp] theorem decode_loadWord (d : Word) : decode 0x20#8 d = .instr (.load d) := rfl
@[simp] theorem decode_rdstateWord (d : Word) : decode 0x40#8 d = .instr .rdstate := rfl
@[simp] theorem decode_finalWord (d : Word) : decode 0x50#8 d = .instr .final := rfl
@[simp] theorem decode_rdtabWord (d : Word) : decode 0x60#8 d = .instr (.rdtab (d.extractLsb' 0 8)) := rfl

@[simp] theorem decode_updateWord (n : BitVec 2) (d : Word) :
    decode (0x30#8 ||| n.setWidth 8) d = .instr (.update n (lowBytes n d)) := by
  have hn : n = 0#2 ∨ n = 1#2 ∨ n = 2#2 ∨ n = 3#2 := by revert n; decide
  rcases hn with rfl | rfl | rfl | rfl <;> rfl

/-- What makes a word illegal is read from the word alone (R40). -/
theorem decode_of_illegal {c : Byte} (h : legal c = false) : ∃ why, ∀ d, decode c d = .illegal why := by
  by_cases hop : 6 < (opField c).toNat
  · exact ⟨.reservedOpcode, fun d => if_pos hop⟩
  by_cases hrsv : rsvField c ≠ 0#2
  · exact ⟨.reservedBits, fun d => by rw [decode, if_neg hop, if_pos hrsv]⟩
  have hcount : opField c ≠ 3#4 ∧ countField c ≠ 0#2 :=
    (((legal_eq_false_iff c).mp h).resolve_left hop).resolve_left hrsv
  exact ⟨.countBits, fun d => by rw [decode, if_neg hop, if_neg hrsv, if_pos hcount]⟩

theorem legal_of_decode {c : Byte} {d : Word} {i : Instr} (h : decode c d = .instr i) : legal c = true := by
  by_contra hc
  obtain ⟨why, hwhy⟩ := decode_of_illegal (Bool.eq_false_of_not_eq_true hc)
  exact nomatch h.symm.trans (hwhy d)

/-- The decoder reads a command from exactly the legal words (R43). -/
theorem exists_decode_iff (c : Byte) (d : Word) : (∃ i, decode c d = .instr i) ↔ legal c = true := by
  refine ⟨fun ⟨_, h⟩ => legal_of_decode h, fun h => ?_⟩
  obtain rfl | rfl | rfl | ⟨n, rfl⟩ | rfl | rfl | rfl := legal_cases h
  · exact ⟨_, decode_nopWord d⟩
  · exact ⟨_, decode_initWord d⟩
  · exact ⟨_, decode_loadWord d⟩
  · exact ⟨_, decode_updateWord n d⟩
  · exact ⟨_, decode_rdstateWord d⟩
  · exact ⟨_, decode_finalWord d⟩
  · exact ⟨_, decode_rdtabWord d⟩

/-- NOP is the single word `0x00` (R46). -/
theorem decode_eq_nop_iff (c : Byte) (d : Word) : decode c d = .instr .nop ↔ c = 0x00#8 := by
  refine ⟨fun h => ?_, fun h => h ▸ decode_nopWord d⟩
  obtain rfl | rfl | rfl | ⟨n, rfl⟩ | rfl | rfl | rfl := legal_cases (legal_of_decode h)
  · rfl
  all_goals simp at h

/-- UPDATE keeps the bytes 0 to `n` of `din` and no other bit. -/
theorem getLsbD_lowBytes (n : BitVec 2) (d : Word) (k : Nat) :
    (lowBytes n d).getLsbD k = (decide (k < 8 * (n.toNat + 1)) && d.getLsbD k) := by
  rw [lowBytes, BitVec.getLsbD_ofNat, Nat.testBit_mod_two_pow]
  by_cases hk : k < 32
  · simp [hk, BitVec.getLsbD]
  · simp [hk, BitVec.getLsbD_of_ge d k (Nat.le_of_not_lt hk)]

theorem lowBytes_congr {n : BitVec 2} {d d' : Word}
    (h : ∀ k, k < 8 * (n.toNat + 1) → d.getLsbD k = d'.getLsbD k) : lowBytes n d = lowBytes n d' := by
  refine BitVec.eq_of_getLsbD_eq fun k _ => ?_
  rw [getLsbD_lowBytes, getLsbD_lowBytes]
  by_cases hk : k < 8 * (n.toNat + 1)
  · rw [h k hk]
  · simp [hk]

theorem usedDinBits_of_illegal {c : Byte} (h : legal c = false) : usedDinBits c = 0 := if_pos h

@[simp] theorem usedDinBits_updateWord (n : BitVec 2) :
    usedDinBits (0x30#8 ||| n.setWidth 8) = 8 * (n.toNat + 1) := by
  revert n; decide

/-- The decoder looks at the used bits of `din` only (R45). -/
theorem decode_congr {c : Byte} {d d' : Word} (h : ∀ k, k < usedDinBits c → d.getLsbD k = d'.getLsbD k) :
    decode c d = decode c d' := by
  cases hc : legal c with
  | false =>
    obtain ⟨why, hwhy⟩ := decode_of_illegal hc
    rw [hwhy, hwhy]
  | true =>
    obtain rfl | rfl | rfl | ⟨n, rfl⟩ | rfl | rfl | rfl := legal_cases hc
    · rfl
    · rfl
    · have hd : d = d' := BitVec.eq_of_getLsbD_eq h
      rw [hd]
    · rw [usedDinBits_updateWord] at h
      rw [decode_updateWord, decode_updateWord, lowBytes_congr h]
    · rfl
    · rfl
    · have hd : d.extractLsb' 0 8 = d'.extractLsb' 0 8 := by
        refine BitVec.eq_of_getLsbD_eq fun k hk => ?_
        simpa [hk] using h k hk
      rw [decode_rdtabWord, decode_rdtabWord, hd]

end Sys2Proof
end

section
/-! The effect of each command word on the registers (R42, R63). -/

namespace Sys2Proof.Machine

theorem commandEffect_of_decode {c : Byte} {d : Word} {i : Instr} (s : State) (h : decode c d = .instr i) :
    commandEffect c d s = exec i s := by
  rw [commandEffect, h]

theorem commandEffect_of_illegal {c : Byte} (d : Word) (s : State) (h : legal c = false) :
    commandEffect c d s = .next s.setErr := by
  obtain ⟨why, hwhy⟩ := decode_of_illegal h
  rw [commandEffect, hwhy d]
  rfl

/-- Every command has its effect in every state: no command faults or is refused (R62). -/
theorem exec_total (i : Instr) (s : State) : ∃ t, exec i s = .next t := by
  cases i <;> exact ⟨_, rfl⟩

/-- The same of every accepted command word, legal or not (R62, R63). -/
theorem commandEffect_total (c : Byte) (d : Word) (s : State) : ∃ t, commandEffect c d s = .next t := by
  cases hc : legal c with
  | false => exact ⟨_, commandEffect_of_illegal d s hc⟩
  | true =>
    obtain ⟨i, hi⟩ := (exists_decode_iff c d).mpr hc
    rw [commandEffect_of_decode s hi]
    exact exec_total i s

/-- The bytes UPDATE folds are untouched by the decoder's clearing of the ones above them (R45). -/
theorem byteOf_lowBytes {n : BitVec 2} {k : Nat} (d : Word) (hk : k ≤ n.toNat) :
    byteOf k (lowBytes n d) = byteOf k d := by
  refine BitVec.eq_of_getLsbD_eq fun j hj => ?_
  have hlow : 8 * k + j < 8 * (n.toNat + 1) := by omega
  simp [byteOf, getLsbD_lowBytes, hlow]

theorem updateBytes_lowBytes (n : BitVec 2) (d : Word) : updateBytes n (lowBytes n d) = updateBytes n d :=
  List.map_congr_left fun _ hk => byteOf_lowBytes d (Nat.lt_succ_iff.mp (List.mem_range.mp hk))

/-- UPDATE's four words fold the low bytes of `din` into `S` and change nothing else (R54). -/
theorem commandEffect_updateWord (n : BitVec 2) (d : Word) (s : State) :
    commandEffect (0x30#8 ||| n.setWidth 8) d s = .next (s.setS (crcUpdate s.regS (updateBytes n d))) := by
  rw [commandEffect_of_decode s (decode_updateWord n d), ← updateBytes_lowBytes]
  rfl

/-- Settles O3: the ten words are found by running through all 256, and the rest follows from the decoder's answer on each
legal word and on the illegal ones. -/
theorem legalWordsAreTheTen : Obligations.LegalWordsAreTheTen := by
  refine ⟨legal_iff_mem, ?illegalCount, exists_decode_iff, fun c d s => commandEffect_of_illegal d s⟩
  case illegalCount => decide +kernel

/-- Settles O4: the reserved space is the complement of R43's three clauses. -/
theorem reservedSpaceRaises : Obligations.ReservedSpaceRaises :=
  ⟨legal_eq_false_iff, fun c d s h => commandEffect_of_illegal d s ((legal_eq_false_iff c).mpr h), decode_eq_nop_iff⟩

/-- Settles O7: each word's effect is that of the command the decoder reads from it. -/
theorem opcodeMapEffects : Obligations.OpcodeMapEffects := by
  intro d s
  refine ⟨?nop, ?init, ?load, ?update1, ?update2, ?update3, ?update4, ?rdstate, ?final, ?rdtab, ?illegal⟩
  case nop => exact commandEffect_of_decode s (decode_nopWord d)
  case init => exact commandEffect_of_decode s (decode_initWord d)
  case load => exact commandEffect_of_decode s (decode_loadWord d)
  case update1 => exact commandEffect_updateWord 0#2 d s
  case update2 => exact commandEffect_updateWord 1#2 d s
  case update3 => exact commandEffect_updateWord 2#2 d s
  case update4 => exact commandEffect_updateWord 3#2 d s
  case rdstate => exact commandEffect_of_decode s (decode_rdstateWord d)
  case final => exact commandEffect_of_decode s (decode_finalWord d)
  case rdtab => exact commandEffect_of_decode s (decode_rdtabWord d)
  case illegal => exact fun c h => commandEffect_of_illegal d s h

end Sys2Proof.Machine
end

section
/-! The port (R38, R39, R45, R49): what a step does for each kind of edge, and what it does not depend on. -/

namespace Sys2Proof.Machine

theorem initialised_iff (s : State) : s.initialised = true ↔ s.stage ≠ .beforeReset := by
  simp [State.initialised]

theorem accepts_iff (s : State) (p : PortIn) :
    s.accepts p = true ↔ p.rst = false ∧ p.cmdValid = true ∧ s.cmdReady = true := by
  simp [State.accepts, and_assoc]

/-- `cmd_ready` reads the stage and never what the host drives (R39). -/
theorem cmdReady_withInputs (s : State) (l : List HostEvent) :
    ({ s with inputs := l } : State).cmdReady = s.cmdReady := rfl

theorem step_eq_stepWith (s : State) : step s = stepWith Config.cmdLatency s := rfl

theorem stepWith_of_inputs (lat : BitVec 4 → Nat) {s : State} {p : PortIn} {rest : List HostEvent}
    (hin : s.inputs = .edge p :: rest) : stepWith lat s = edgeWith lat p s := by
  rw [stepWith, nextEvent_cons s _ rest hin]

theorem stepWith_reset (lat : BitVec 4 → Nat) {s : State} {p : PortIn} {rest : List HostEvent}
    (hin : s.inputs = .edge p :: rest) (hrst : p.rst = true) : stepWith lat s = .next s.resetEdge := by
  rw [stepWith_of_inputs lat hin, edgeWith, if_pos hrst]

theorem stepWith_accept (lat : BitVec 4 → Nat) {s u : State} {p : PortIn} {rest : List HostEvent}
    (hin : s.inputs = .edge p :: rest) (hi : s.initialised = true) (ha : s.accepts p = true)
    (hu : commandEffect p.cmd p.din s = .next u) : stepWith lat s = .next (u.afterAccept lat p.cmd) := by
  obtain ⟨hrst, -, -⟩ := (accepts_iff s p).mp ha
  rw [stepWith_of_inputs lat hin, edgeWith, if_neg (by simp [hrst]), if_neg ((initialised_iff s).mp hi), if_pos ha,
    acceptEdge, hu]

theorem stepWith_quiet (lat : BitVec 4 → Nat) {s : State} {p : PortIn} {rest : List HostEvent}
    (hin : s.inputs = .edge p :: rest) (hi : s.initialised = true) (hrst : p.rst = false)
    (ha : s.accepts p = false) : stepWith lat s = .next s.quietEdge := by
  rw [stepWith_of_inputs lat hin, edgeWith, if_neg (by simp [hrst]), if_neg ((initialised_iff s).mp hi),
    if_neg (by simp [ha])]

theorem acceptedHere_of_inputs {s : State} {p : PortIn} {rest : List HostEvent} (hi : s.initialised = true)
    (h : s.inputs = .edge p :: rest) : s.acceptedHere = if s.accepts p then [(p.cmd, p.din)] else [] := by
  rw [State.acceptedHere, nextEvent_cons s _ rest h]
  simp [hi]

@[simp] theorem afterAccept_regs (lat : BitVec 4 → Nat) (c : Byte) (s : State) :
    (s.afterAccept lat c).regs = s.regs := rfl

@[simp] theorem quietEdge_regs (s : State) : s.quietEdge.regs = s.regs := rfl

/-- Settles O34: an acceptance leaves the command's effect in the registers, any other edge with `rst = 0` leaves them
alone. -/
theorem acceptanceExactly : Obligations.AcceptanceExactly := by
  intro s p rest hi hin
  have hhere := acceptedHere_of_inputs hi hin
  refine ⟨accepts_iff s p, fun ha => ⟨by rw [hhere, if_pos ha], ?accepted⟩,
    fun ha => ⟨by simp [hhere, ha], fun hrst => ?quiet⟩⟩
  case accepted =>
    obtain ⟨u, hu⟩ := commandEffect_total p.cmd p.din s
    exact ⟨_, u, stepWith_accept _ hin hi ha hu, hu, afterAccept_regs _ _ u⟩
  case quiet => exact ⟨_, stepWith_quiet _ hin hi hrst ha, quietEdge_regs s⟩

theorem step_reset_cons {p : PortIn} (s : State) (rest : List HostEvent) (hrst : p.rst = true) :
    step { s with inputs := .edge p :: rest } = .next { s.resetEdge with inputs := rest } :=
  stepWith_reset _ (s := { s with inputs := .edge p :: rest }) rfl hrst

theorem step_quiet_cons {s : State} {p : PortIn} (rest : List HostEvent) (hi : s.initialised = true)
    (hrst : p.rst = false) (ha : s.accepts p = false) :
    step { s with inputs := .edge p :: rest } = .next { s.quietEdge with inputs := rest } :=
  stepWith_quiet _ (s := { s with inputs := .edge p :: rest }) rfl hi hrst ha

/-- A reset edge and a quiet edge read nothing of the port but `rst`. -/
theorem step_congr_of_not_accepted {s : State} {p q : PortIn} (rest : List HostEvent) (hi : s.initialised = true)
    (hpq : p.rst = q.rst) (hp : s.accepts p = false) (hq : s.accepts q = false) :
    step { s with inputs := .edge p :: rest } = step { s with inputs := .edge q :: rest } := by
  cases hrst : p.rst with
  | true => rw [step_reset_cons s rest hrst, step_reset_cons s rest (hpq ▸ hrst)]
  | false => rw [step_quiet_cons rest hi hrst hp, step_quiet_cons rest hi (hpq ▸ hrst) hq]

/-- Settles O35: not accepted, `cmd`, `din` and `cmd_valid` are not read, and `cmd_ready` reads the stage alone. -/
theorem notAcceptedHasNoEffect : Obligations.NotAcceptedHasNoEffect :=
  ⟨fun _ _ _ rest hi => step_congr_of_not_accepted rest hi, cmdReady_withInputs⟩

/-- No effect reads or writes what the host will do. -/
theorem exec_withInputs {i : Instr} {s t : State} (l : List HostEvent) (h : exec i s = .next t) :
    exec i { s with inputs := l } = .next { t with inputs := l } := by
  cases i <;> (injection h with h; subst h; rfl)

theorem commandEffect_withInputs {c : Byte} {d : Word} {s t : State} (l : List HostEvent)
    (h : commandEffect c d s = .next t) : commandEffect c d { s with inputs := l } = .next { t with inputs := l } := by
  obtain ⟨i, hi, h⟩ | ⟨why, hwhy, rfl⟩ := commandEffect_cases h
  · rw [commandEffect_of_decode _ hi, exec_withInputs l h]
  · rw [commandEffect, hwhy]
    rfl

/-- The step that accepts the command at the head of the host's events leaves the events after it. -/
theorem step_accept_cons {s u : State} {p : PortIn} (rest : List HostEvent) (hi : s.initialised = true)
    (ha : s.accepts p = true) (hu : commandEffect p.cmd p.din s = .next u) :
    step { s with inputs := .edge p :: rest } =
      .next { u.afterAccept Config.cmdLatency p.cmd with inputs := rest } :=
  stepWith_accept _ (s := { s with inputs := .edge p :: rest }) rfl hi ha (commandEffect_withInputs _ hu)

theorem commandEffect_congr {c : Byte} {d d' : Word} (s : State)
    (h : ∀ k, k < usedDinBits c → d.getLsbD k = d'.getLsbD k) : commandEffect c d s = commandEffect c d' s := by
  rw [commandEffect, decode_congr h, commandEffect]

/-- Presenting a word with a `din` that differs in unused bits only gives the same step: accepted, the effects are equal;
not accepted, R39 applies. -/
theorem step_present_congr {c : Byte} {d d' : Word} {s : State} (rest : List HostEvent) (hi : s.initialised = true)
    (h : ∀ k, k < usedDinBits c → d.getLsbD k = d'.getLsbD k) :
    step { s with inputs := .edge (PortIn.present c d) :: rest } =
      step { s with inputs := .edge (PortIn.present c d') :: rest } := by
  have hsame : s.accepts (PortIn.present c d') = s.accepts (PortIn.present c d) := rfl
  cases ha : s.accepts (PortIn.present c d) with
  | false => exact step_congr_of_not_accepted rest hi rfl ha (hsame.trans ha)
  | true =>
    obtain ⟨u, hu⟩ := commandEffect_total c d s
    have hu' : commandEffect c d' s = .next u := commandEffect_congr s h ▸ hu
    rw [step_accept_cons rest hi ha hu, step_accept_cons rest hi (hsame.trans ha) hu']
    rfl

/-- Settles O5: the used bits are read off each word, and the decoder looks at no other bit. -/
theorem unusedDinBitsAreIgnored : Obligations.UnusedDinBitsAreIgnored := by
  refine ⟨by decide, fun c => usedDinBits_of_illegal, usedDinBits_updateWord, by decide, by decide, ?step⟩
  case step => exact fun c d d' s rest hi h => step_present_congr rest hi h

theorem doutPort_of_guaranteed {s : State} (h : s.portsGuaranteed = true) : s.doutPort = s.regDout := if_pos h

theorem errPort_of_guaranteed {s : State} (h : s.portsGuaranteed = true) : s.errPort = s.regErr := if_pos h

/-- A ready cycle after the first reset is one of the cycles R49 names. -/
theorem portsGuaranteed_of_ready {s : State} (hi : s.initialised = true) (hr : s.cmdReady = true) :
    s.portsGuaranteed = true := by
  rw [initialised_iff] at hi
  cases hg : s.stage with
  | beforeReset => exact absurd hg hi
  | afterReset => simp [State.portsGuaranteed, hg]
  | running busy => simpa [State.portsGuaranteed, hg, cmdReady_running s busy hg] using hr

theorem portsGuaranteed_resetEdge (s : State) : s.resetEdge.portsGuaranteed = true := rfl

/-- Settles O39: both cycles R49 names are ones in which the ports are the registers. -/
theorem portsShowRegisters : Obligations.PortsShowRegisters := by
  refine ⟨fun s hi hr => ?ready, fun s t p rest hrst hin hstep => ?afterReset⟩
  case ready =>
    have hg := portsGuaranteed_of_ready hi hr
    exact ⟨doutPort_of_guaranteed hg, errPort_of_guaranteed hg⟩
  case afterReset =>
    rw [step_eq_stepWith, stepWith_reset _ hin hrst] at hstep
    injection hstep with ht
    have hg : t.portsGuaranteed = true := ht ▸ portsGuaranteed_resetEdge s
    exact ⟨doutPort_of_guaranteed hg, errPort_of_guaranteed hg⟩

end Sys2Proof.Machine
end

section
/-! The state-control commands (R50 to R52) and the two read commands that show `S` (R58, R59): the answer of each, and
the run of a list of accepted commands one command at a time (R28). -/

namespace Sys2Proof.Machine

@[simp] theorem State.setS_self (s : State) : s.setS s.regS = s := rfl

@[simp] theorem exec_nop (s : State) : exec .nop s = .next s := rfl
@[simp] theorem exec_init (s : State) : exec .init s = .next (s.setS Config.initState) := rfl
@[simp] theorem exec_load (v : Word) (s : State) : exec (.load v) s = .next (s.setS v) := rfl
@[simp] theorem exec_rdstate (s : State) : exec .rdstate s = .next (s.setDout s.regS) := rfl
@[simp] theorem exec_final (s : State) : exec .final s = .next (s.setDout (finalize s.regS)) := rfl

@[simp] theorem runCommands_nil (s : State) : runCommands [] s = .next s := rfl

theorem runCommands_cons_of_decode {c : Byte} {d : Word} {i : Instr} {s t : State} (rest : List (Byte × Word))
    (hi : decode c d = .instr i) (ht : exec i s = .next t) :
    runCommands ((c, d) :: rest) s = runCommands rest t := by
  rw [runCommands, commandEffect_of_decode s hi, ht]

/-- The other words of NOP's opcode are reserved by their `rsv` or `n` bits (R50, R63). -/
theorem legal_eq_false_of_nop_opcode {c : Byte} (hop : opField c = 0#4)
    (h : rsvField c ≠ 0#2 ∨ countField c ≠ 0#2) : legal c = false := by
  have hnotUpdate : opField c ≠ 3#4 := by rw [hop]; decide
  exact (legal_eq_false_iff c).mpr (.inr (h.imp_right fun hcount => ⟨hnotUpdate, hcount⟩))

/-- The CRC-32 of the empty message is 0: `INIT` and `XOROUT` cancel (R51, R59). -/
theorem finalize_initState : finalize Config.initState = 0#32 := BitVec.xor_self

/-- INIT then FINAL leaves the CRC-32 of the empty message in `DOUT` (R51). -/
theorem runCommands_init_final (s : State) :
    runCommands [encode .init, encode .final] s = .next ((s.setS Config.initState).setDout 0#32) :=
  calc runCommands [encode .init, encode .final] s
      = runCommands [encode .final] (s.setS Config.initState) :=
        runCommands_cons_of_decode _ (decode_initWord _) (exec_init s)
    _ = .next ((s.setS Config.initState).setDout (finalize Config.initState)) :=
        (runCommands_cons_of_decode [] (decode_finalWord _) (exec_final _)).trans (runCommands_nil _)
    _ = .next ((s.setS Config.initState).setDout 0#32) := by rw [finalize_initState]

/-- Settles O8: the decoder reads NOP from `0x00`, and every other word of its opcode is in the reserved space. -/
theorem nopRule : Obligations.NopRule := by
  refine ⟨decode_nopWord, exec_nop, fun c d hop h => ?illegal⟩
  case illegal =>
    obtain ⟨why, hwhy⟩ := decode_of_illegal (legal_eq_false_of_nop_opcode hop h)
    exact ⟨why, hwhy d⟩

/-- Settles O9: INIT is one write of `S`, which keeps a state whose `S` already holds the value. -/
theorem initRule : Obligations.InitRule := by
  refine ⟨decode_initWord, exec_init, fun s hs => ?alreadyInit, runCommands_init_final⟩
  case alreadyInit =>
    have hself : s.setS Config.initState = s := by
      rw [show Config.initState = s.regS from hs.symm, State.setS_self]
    rw [exec_init, hself]

/-- Settles O10: LOAD is one write of `S`, so what a read command left in `DOUT` comes back as it was read. -/
theorem loadRule : Obligations.LoadRule := by
  refine ⟨decode_loadWord, exec_load, fun s => ?asInit, fun s u => ?resume, fun s u => ?finalized, ?fold1234⟩
  case asInit => exact (exec_load _ s).trans (exec_init s).symm
  case resume => exact ⟨_, _, exec_rdstate s, exec_load _ u, State.setS_regS u _⟩
  case finalized => exact ⟨_, _, exec_final s, exec_load _ u, State.setS_regS u _⟩
  case fold1234 => decide

end Sys2Proof.Machine
end

section
/-! The one-byte step (R53) and the bit-serial register it stands for (R57). -/

namespace Sys2Proof.Machine

/-- Masking with `0xFF` keeps byte 0. -/
theorem and_byte_mask (x : Word) : x &&& 0xFF#32 = (x.extractLsb' 0 8).setWidth 32 := by
  have hmask : ∀ k < 32, (0xFF#32).getLsbD k = decide (k < 8) := by decide
  refine BitVec.eq_of_getLsbD_eq fun k hk => ?_
  rw [BitVec.getLsbD_and, hmask k hk]
  simp [hk, Bool.and_comm]

/-- The table index of the step is `s[7:0] ^ b` (R53). -/
theorem crcByte_index (s : Word) (b : Byte) :
    (s ^^^ b.setWidth 32) &&& 0xFF#32 = (s.extractLsb' 0 8 ^^^ b).setWidth 32 := by
  have hlow : (s ^^^ b.setWidth 32).extractLsb' 0 8 = s.extractLsb' 0 8 ^^^ b := by
    refine BitVec.eq_of_getLsbD_eq fun k hk => ?_
    have hk32 : k < 32 := by omega
    simp [hk, hk32]
  rw [and_byte_mask, hlow]

/-- The shift is logical, so its top byte is zero already and the mask changes nothing (R53, R55). -/
theorem ushiftRight_eight_and_mask (s : Word) : (s >>> 8) &&& 0x00FFFFFF#32 = s >>> 8 := by
  have hmask : ∀ k < 32, (0x00FFFFFF#32).getLsbD k = decide (k < 24) := by decide
  refine BitVec.eq_of_getLsbD_eq fun k hk => ?_
  rw [BitVec.getLsbD_and, hmask k hk]
  by_cases hk24 : k < 24
  · simp [hk24]
  · have hout : 32 ≤ 8 + k := by omega
    simp [BitVec.getLsbD_of_ge s _ hout]

/-- `CRCBYTE` without its two masks: the index is already a byte, and the shift has already cleared the top one. -/
theorem crcByte_eq (s : Word) (b : Byte) : crcByte s b = s >>> 8 ^^^ tabRead (s.extractLsb' 0 8 ^^^ b) := by
  rw [crcByte, crcByte_index, ushiftRight_eight_and_mask, BitVec.setWidth_setWidth_of_le _ (by decide),
    BitVec.setWidth_eq]

/-- Settles O18: the shift alone gives `0` for the top byte and `s[31:8]` below it, and the table entry is XORed in. -/
theorem crcByteFormula : Obligations.CrcByteFormula := by
  intro s b
  have htop : (s >>> 8).extractLsb' 24 8 = 0#8 := by
    refine BitVec.eq_of_getLsbD_eq fun k hk => ?_
    have hout : 32 ≤ 8 + (24 + k) := by omega
    simp [BitVec.getLsbD_of_ge s _ hout]
  have hrest : (s >>> 8).extractLsb' 0 24 = s.extractLsb' 8 24 := by
    refine BitVec.eq_of_getLsbD_eq fun k hk => ?_
    simp [hk]
  refine ⟨crcByte_index s b, ?formula, ushiftRight_eight_and_mask s, ?topByte, ?lowBytes⟩
  case formula => rw [ushiftRight_eight_and_mask, crcByte_eq]
  case topByte => rw [crcByte_eq, BitVec.extractLsb'_xor, htop, BitVec.zero_xor]
  case lowBytes => rw [crcByte_eq, BitVec.extractLsb'_xor, hrest]

/-- While the bits that leave the register are 0, `POLY` is never XORed in and the register only shifts. -/
theorem shiftSteps_of_low_zero {k : Nat} {c : Word} (h : ∀ j, j < k → c.getLsbD j = false) :
    shiftSteps k c = c >>> k := by
  induction k generalizing c with
  | zero => simp [shiftSteps]
  | succ k ih =>
    have hstep : shiftStep c = c >>> 1 := by
      rw [shiftStep, h 0 k.succ_pos, if_neg Bool.false_ne_true]
    have hshifted : ∀ j, j < k → (c >>> 1).getLsbD j = false := fun j hj => by
      simpa [Nat.add_comm] using h (j + 1) (Nat.succ_lt_succ hj)
    rw [shiftSteps, hstep, ih hshifted, ← BitVec.shiftRight_add, Nat.add_comm]

/-- With its low byte cleared, a word is shifted right by eight steps. -/
theorem shiftSteps_eight_xor_low_byte (s : Word) :
    shiftSteps 8 (s ^^^ (s.extractLsb' 0 8).setWidth 32) = s >>> 8 := by
  have hcleared : ∀ j, j < 8 → (s ^^^ (s.extractLsb' 0 8).setWidth 32).getLsbD j = false := fun j hj => by
    have hj32 : j < 32 := by omega
    simp [hj, hj32]
  have hlow : ((s.extractLsb' 0 8).setWidth 32) >>> 8 = 0#32 := by
    refine BitVec.eq_of_getLsbD_eq fun k _ => ?_
    simp
  rw [shiftSteps_of_low_zero hcleared, BitVec.ushiftRight_xor_distrib, hlow, BitVec.xor_zero]

/-- Settles O19: the register is linear, so its eight steps split. On the upper bytes they only shift, and on the index
they are the construction of the table entry (R17). -/
theorem bitSerialEquivalence : Obligations.BitSerialEquivalence := by
  intro s b
  have hsplit : s ^^^ b.setWidth 32 =
      (s ^^^ (s.extractLsb' 0 8).setWidth 32) ^^^ (s.extractLsb' 0 8 ^^^ b).setWidth 32 := by
    rw [BitVec.setWidth_xor, BitVec.xor_assoc, ← BitVec.xor_assoc (BitVec.setWidth 32 _), BitVec.xor_self,
      BitVec.zero_xor]
  calc crcByte s b
      = s >>> 8 ^^^ tabRead (s.extractLsb' 0 8 ^^^ b) := crcByte_eq s b
    _ = shiftSteps 8 (s ^^^ b.setWidth 32) := by
        rw [hsplit, shiftSteps_xor, shiftSteps_eight_xor_low_byte, tabRead]

end Sys2Proof.Machine
end

section
/-! UPDATE (R54): its one write of `S`, and which bits of its operand the fold reads (R45). -/

namespace Sys2Proof.Machine

@[simp] theorem exec_update (n : BitVec 2) (v : Word) (s : State) :
    exec (.update n v) s = .next (s.setS (crcUpdate s.regS (updateBytes n v))) := rfl

/-- A byte equal to `s[7:0]` makes the step a plain shift (R54). -/
theorem crcByte_low_byte (s : Word) : crcByte s (s.extractLsb' 0 8) = s >>> 8 := by
  obtain ⟨hzero, -, -⟩ := tableAnchorsAndLinearity
  rw [crcByte_eq, BitVec.xor_self, hzero, BitVec.xor_zero]

/-- From `S = 0`, zero bytes leave 0 (R54). -/
theorem crcUpdate_zero_replicate (k : Nat) : crcUpdate 0#32 (List.replicate k 0#8) = 0#32 := by
  induction k with
  | zero => rfl
  | succ k ih =>
    have hstep : crcByte 0#32 0#8 = 0#32 := crcByte_low_byte 0#32
    rw [List.replicate_succ, crcUpdate_cons, hstep, ih]

theorem updateBytes_zero (n : BitVec 2) : updateBytes n 0#32 = List.replicate (n.toNat + 1) 0#8 := by
  have hbyte (k : Nat) : byteOf k 0#32 = 0#8 := BitVec.extractLsb'_zero
  simp [updateBytes, hbyte]

/-- UPDATE reads the bytes 0 to `n` of its operand only (R45). -/
theorem updateBytes_congr {n : BitVec 2} {v v' : Word}
    (h : ∀ k, k < 8 * (n.toNat + 1) → v.getLsbD k = v'.getLsbD k) : updateBytes n v = updateBytes n v' := by
  rw [← updateBytes_lowBytes n v, lowBytes_congr h, updateBytes_lowBytes]

/-- Settles O11: UPDATE is one write of the fold of its `n + 1` bytes. -/
theorem updateRule : Obligations.UpdateRule := by
  refine ⟨fun n d => ?words, fun v s => ?fold, fun n s hs => ?zeros, crcByte_low_byte, fun n v v' s h => ?ignored,
    fun s hs => ?examples⟩
  case words =>
    refine ⟨lowBytes n d, decode_updateWord n d, fun k hk => ?_⟩
    rw [getLsbD_lowBytes, decide_eq_true hk, Bool.true_and]
  case fold => exact ⟨exec_update _ v s, exec_update _ v s, exec_update _ v s, exec_update _ v s⟩
  case zeros =>
    have hfold : crcUpdate s.regS (updateBytes n 0#32) = s.regS := by
      rw [updateBytes_zero, hs, crcUpdate_zero_replicate]
    rw [exec_update, hfold, State.setS_self]
  case ignored => rw [exec_update, exec_update, updateBytes_congr h]
  case examples =>
    have hone : crcUpdate 0xFFFFFFFF#32 (updateBytes 0#2 0xFF#32) = 0x00FFFFFF#32 := by decide
    have hfour : crcUpdate 0xFFFFFFFF#32 (updateBytes 3#2 0xFFFFFFFF#32) = 0x00000000#32 := by decide
    have hascii : crcUpdate 0xFFFFFFFF#32 (updateBytes 3#2 0x34333231#32) = 0x641C1F5C#32 := by decide
    rw [exec_update, exec_update, exec_update, hs, hone, hfour, hascii]
    exact ⟨rfl, rfl, rfl⟩

end Sys2Proof.Machine
end

section
/-! What a sequence of commands that goes on with one computation leaves in `S` (R56). -/

namespace Sys2Proof.Machine

theorem fedBytes_of_illegal {c : Byte} (d : Word) (h : legal c = false) : fedBytes c d = [] := by
  obtain ⟨why, hwhy⟩ := decode_of_illegal h
  rw [fedBytes, hwhy d]

theorem fedBytes_updateWord (n : BitVec 2) (d : Word) : fedBytes (0x30#8 ||| n.setWidth 8) d = updateBytes n d := by
  rw [fedBytes, decode_updateWord]
  exact updateBytes_lowBytes n d

/-- Every accepted word but INIT and LOAD folds into `S` the bytes it feeds: UPDATE its own, any other word none. -/
theorem commandEffect_folds_fedBytes {c : Byte} (d : Word) (s : State) (hinit : c ≠ 0x10#8) (hload : c ≠ 0x20#8) :
    ∃ t, commandEffect c d s = .next t ∧ t.regS = crcUpdate s.regS (fedBytes c d) := by
  cases hc : legal c with
  | false =>
    refine ⟨_, commandEffect_of_illegal d s hc, ?_⟩
    rw [fedBytes_of_illegal d hc, crcUpdate_nil, State.setErr_regS]
  | true =>
    obtain rfl | rfl | rfl | ⟨n, rfl⟩ | rfl | rfl | rfl := legal_cases hc
    · exact ⟨_, commandEffect_of_decode s (decode_nopWord d), rfl⟩
    · exact absurd rfl hinit
    · exact absurd rfl hload
    · refine ⟨_, commandEffect_updateWord n d s, ?_⟩
      rw [fedBytes_updateWord, State.setS_regS]
    · exact ⟨_, commandEffect_of_decode s (decode_rdstateWord d), rfl⟩
    · exact ⟨_, commandEffect_of_decode s (decode_finalWord d), rfl⟩
    · exact ⟨_, commandEffect_of_decode s (decode_rdtabWord d), rfl⟩

theorem runCommands_cons {c : Byte} {d : Word} {s t : State} (rest : List (Byte × Word))
    (h : commandEffect c d s = .next t) : runCommands ((c, d) :: rest) s = runCommands rest t := by
  rw [runCommands, h]

theorem keepsComputation_cons (c : Byte) (d : Word) (rest : List (Byte × Word)) :
    keepsComputation ((c, d) :: rest) = true ↔ c ≠ 0x10#8 ∧ c ≠ 0x20#8 ∧ keepsComputation rest = true := by
  simp [keepsComputation, and_assoc]

/-- A sequence with no INIT and no LOAD leaves in `S` the fold of the bytes it feeds, however it splits them (R56). -/
theorem runCommands_folds_fedMessage {cs : List (Byte × Word)} (s : State) (h : keepsComputation cs = true) :
    ∃ t, runCommands cs s = .next t ∧ t.regS = crcUpdate s.regS (fedMessage cs) := by
  induction cs generalizing s with
  | nil => exact ⟨s, runCommands_nil s, rfl⟩
  | cons cd rest ih =>
    obtain ⟨c, d⟩ := cd
    obtain ⟨hinit, hload, hrest⟩ := (keepsComputation_cons c d rest).mp h
    obtain ⟨u, hu, huS⟩ := commandEffect_folds_fedBytes d s hinit hload
    obtain ⟨t, ht, htS⟩ := ih u hrest
    refine ⟨t, (runCommands_cons rest hu).trans ht, ?_⟩
    rw [htS, huS, fedMessage, crcUpdate_append]

/-- Settles O22: both sequences leave the fold of what they feed, and they feed the same bytes. -/
theorem chainingOverAnySplit : Obligations.ChainingOverAnySplit := by
  refine ⟨crcUpdate_append, fun cs s h => runCommands_folds_fedMessage s h, fun cs cs' s h h' hfed => ?sameBytes⟩
  case sameBytes =>
    obtain ⟨t, ht, htS⟩ := runCommands_folds_fedMessage s h
    obtain ⟨t', ht', htS'⟩ := runCommands_folds_fedMessage s h'
    exact ⟨t, t', ht, ht', by rw [htS, htS', hfed]⟩

end Sys2Proof.Machine
end

section
/-! Running the encoder's transactions (R28, R47), a sequence in two parts, and the readout commands with the CRC they
deliver (R58 to R61). -/

namespace Sys2Proof.Machine

@[simp] theorem State.setS_setS (s : State) (v w : Word) : (s.setS v).setS w = s.setS w := rfl

@[simp] theorem State.setDout_setDout (s : State) (v w : Word) : (s.setDout v).setDout w = s.setDout w := rfl

@[simp] theorem exec_rdtab (i : Byte) (s : State) : exec (.rdtab i) s = .next (s.setDout (tabRead i)) := rfl

theorem exec_rdtab_of_entry {i : Byte} {v : Word} (s : State) (h : tabRead i = v) :
    exec (.rdtab i) s = .next (s.setDout v) := by
  rw [exec_rdtab, h]

/-- XOR with `XOROUT` flips every bit (R59). -/
theorem finalize_eq_not (v : Word) : finalize v = ~~~v := by
  rw [finalize, show Config.xorOut = BitVec.allOnes 32 from rfl, BitVec.xor_allOnes]

/-- The transaction the encoder writes has the effect of its command; UPDATE folds the same bytes whatever its term holds
above byte `n`. -/
theorem commandEffect_encode (i : Instr) (s : State) : commandEffect (encode i).1 (encode i).2 s = exec i s := by
  cases i with
  | nop => exact commandEffect_of_decode s (decode_nopWord _)
  | init => exact commandEffect_of_decode s (decode_initWord _)
  | load v => exact commandEffect_of_decode s (decode_loadWord v)
  | update n v => exact commandEffect_updateWord n v s
  | rdstate => exact commandEffect_of_decode s (decode_rdstateWord _)
  | final => exact commandEffect_of_decode s (decode_finalWord _)
  | rdtab idx =>
    have hidx : (idx.setWidth 32).extractLsb' 0 8 = idx := by
      refine BitVec.eq_of_getLsbD_eq fun k hk => ?_
      have hk32 : k < 32 := by omega
      simp [hk, hk32]
    rw [encode, commandEffect_of_decode s (decode_rdtabWord _), hidx]

theorem runCommands_encode_cons {i : Instr} {s t : State} (rest : List (Byte × Word)) (h : exec i s = .next t) :
    runCommands (encode i :: rest) s = runCommands rest t :=
  runCommands_cons rest ((commandEffect_encode i s).trans h)

/-- The second part of a sequence runs on the state the first part left (R28). -/
theorem runCommands_append {cs : List (Byte × Word)} (cs' : List (Byte × Word)) {s t : State}
    (h : runCommands cs s = .next t) : runCommands (cs ++ cs') s = runCommands cs' t := by
  induction cs generalizing s with
  | nil =>
    injection h with hst
    rw [List.nil_append, hst]
  | cons cd rest ih =>
    obtain ⟨c, d⟩ := cd
    obtain ⟨u, hu⟩ := commandEffect_total c d s
    rw [runCommands_cons rest hu] at h
    rw [List.cons_append, runCommands_cons _ hu, ih h]

/-- A command that starts a computation by writing `S`, then any feeding of a message: every command after them finds the
fold of the message from the value written. -/
theorem runCommands_start_feed {c : Byte} {d v : Word} {i : Instr} {cs : List (Byte × Word)} {s : State}
    (hi : decode c d = .instr i) (hv : exec i s = .next (s.setS v)) (h : keepsComputation cs = true) :
    ∃ t, t.regS = crcUpdate v (fedMessage cs) ∧
      ∀ rest, runCommands ((c, d) :: (cs ++ rest)) s = runCommands rest t := by
  obtain ⟨t, ht, htS⟩ := runCommands_folds_fedMessage (s.setS v) h
  refine ⟨t, by rw [htS, State.setS_regS], fun rest => ?_⟩
  rw [runCommands_cons_of_decode _ hi hv, runCommands_append rest ht]

theorem runCommands_rdstate (d : Word) (s : State) : runCommands [(0x40#8, d)] s = .next (s.setDout s.regS) :=
  (runCommands_cons_of_decode [] (decode_rdstateWord d) (exec_rdstate s)).trans (runCommands_nil _)

theorem runCommands_final (d : Word) (s : State) :
    runCommands [(0x50#8, d)] s = .next (s.setDout (finalize s.regS)) :=
  (runCommands_cons_of_decode [] (decode_finalWord d) (exec_final s)).trans (runCommands_nil _)

/-- Settles O23: INIT or LOAD writes the value the fold starts from, and the read command copies out the `S` that the feeding
leaves, as it is (RDSTATE) or finalized (FINAL). -/
theorem freestandingComputation : Obligations.FreestandingComputation := by
  rintro _ cs d d' s hcs rfl
  refine ⟨?fromInit, fun prior => ?fromLoad⟩
  case fromInit =>
    obtain ⟨t, htS, hrun⟩ := runCommands_start_feed (decode_initWord d) (exec_init s) hcs
    refine ⟨_, (hrun _).trans (runCommands_final d' t), ?dout, htS⟩
    case dout => rw [State.setDout_regDout, htS]; rfl
  case fromLoad =>
    obtain ⟨t, htS, hrun⟩ := runCommands_start_feed (decode_loadWord prior) (exec_load prior s) hcs
    refine ⟨_, _, (hrun _).trans (runCommands_rdstate d' t), (hrun _).trans (runCommands_final d' t), htS, ?dout⟩
    case dout => rw [State.setDout_regDout, htS]; rfl

/-- Settles O12: RDSTATE is one write of `DOUT`, and INIT and UPDATE fix the `S` it copies. -/
theorem rdstateRule : Obligations.RdstateRule := by
  refine ⟨decode_rdstateWord, exec_rdstate, exec_rdstate State.reset, fun s => ?afterInit, fun s => ?ascii1234⟩
  case afterInit =>
    exact (runCommands_encode_cons _ (exec_init s)).trans (runCommands_rdstate _ _)
  case ascii1234 =>
    have hfold : crcUpdate Config.initState (updateBytes 3#2 0x34333231#32) = 0x641C1F5C#32 := by decide
    rw [runCommands_encode_cons _ (exec_init s), runCommands_encode_cons _ (exec_update _ _ _), State.setS_regS, hfold]
    exact runCommands_rdstate _ _

/-- Settles O13: FINAL is one write of `DOUT` and leaves `S`, so a second FINAL writes the same value again. -/
theorem finalRule : Obligations.FinalRule := by
  refine ⟨decode_finalWord, exec_final, fun s => ?complement, fun s => ?twice, runCommands_init_final,
    fun s hs => ?fromZero, fun s => ?checkValue⟩
  case complement =>
    rw [exec_final, finalize_eq_not]
    rfl
  case twice =>
    calc runCommands [encode .final, encode .final] s
        = .next ((s.setDout (finalize s.regS)).setDout (finalize s.regS)) :=
          (runCommands_encode_cons _ (exec_final s)).trans (runCommands_final _ _)
      _ = exec .final s := by rw [State.setDout_setDout, exec_final]
  case fromZero =>
    have hout : finalize s.regS = 0xFFFFFFFF#32 := by rw [hs]; decide
    rw [exec_final, hout]
    rfl
  case checkValue =>
    have h1234 : crcUpdate Config.initState (updateBytes 3#2 0x34333231#32) = 0x641C1F5C#32 := by decide
    have h56789 : crcUpdate (crcUpdate 0x641C1F5C#32 (updateBytes 3#2 0x38373635#32)) (updateBytes 0#2 0x39#32) =
        0x340BC6D9#32 := by decide
    have hcheck : finalize 0x340BC6D9#32 = 0xCBF43926#32 := by decide
    calc runCommands [encode .init, encode (.update 3#2 0x34333231#32), encode (.update 3#2 0x38373635#32),
          encode (.update 0#2 0x39#32), encode .final] s
        = runCommands [encode .final] (s.setS 0x340BC6D9#32) := by
          rw [runCommands_encode_cons _ (exec_init s), runCommands_encode_cons _ (exec_update _ _ _),
            runCommands_encode_cons _ (exec_update _ _ _), runCommands_encode_cons _ (exec_update _ _ _)]
          simp only [State.setS_regS, State.setS_setS, h1234, h56789]
      _ = .next ((s.setS 0x340BC6D9#32).setDout 0xCBF43926#32) := by
          rw [← hcheck]
          exact runCommands_final _ _

/-- Settles O14: RDTAB is one write of the table entry at the low byte of `din`; both `din` of the example have index 1. -/
theorem rdtabRule : Obligations.RdtabRule := by
  obtain ⟨hzero, hpoly, -⟩ := tableAnchorsAndLinearity
  have hlast : tabRead 0xFF#8 = 0x2D02EF8D#32 := by decide
  have hone : tabRead 0x01#8 = 0x77073096#32 := by decide
  refine ⟨decode_rdtabWord, exec_rdtab, fun s => ⟨?first, ?poly, ?last⟩, fun s => ⟨?dinHigh, ?dinLow⟩⟩
  case first => exact exec_rdtab_of_entry s hzero
  case poly => exact exec_rdtab_of_entry s hpoly
  case last => exact exec_rdtab_of_entry s hlast
  case dinHigh => exact (commandEffect_of_decode s (decode_rdtabWord 0xFFFFFF01#32)).trans (exec_rdtab_of_entry s hone)
  case dinLow => exact (commandEffect_of_decode s (decode_rdtabWord 0x00000001#32)).trans (exec_rdtab_of_entry s hone)

end Sys2Proof.Machine
end

section
/-! The one exception (R62, R63, R66): legal words leave `ERR` alone, illegal words set it, and reset comes before both. -/

namespace Sys2Proof.Machine

/-- No command writes `ERR` (R62). -/
theorem exec_keeps_err {i : Instr} {s t : State} (h : exec i s = .next t) : t.regErr = s.regErr := by
  cases i <;> (injection h with h; subst h; rfl)

/-- A legal word executes the rule of its opcode, which succeeds and leaves `ERR` as it was (R62, R63). -/
theorem commandEffect_of_legal {c : Byte} (d : Word) (s : State) (h : legal c = true) :
    ∃ i t, decode c d = .instr i ∧ exec i s = .next t ∧ commandEffect c d s = .next t ∧ t.regErr = s.regErr := by
  obtain ⟨i, hi⟩ := (exists_decode_iff c d).mpr h
  obtain ⟨t, ht⟩ := exec_total i s
  exact ⟨i, t, hi, ht, (commandEffect_of_decode s hi).trans ht, exec_keeps_err ht⟩

/-- Settles O15: no command fails or writes `ERR`, and a legal word has the effect of its command. -/
theorem legalCommandsNeverRaise : Obligations.LegalCommandsNeverRaise := by
  refine ⟨fun i s => ?commands, fun c d s hc => ?words⟩
  case commands =>
    obtain ⟨t, ht⟩ := exec_total i s
    exact ⟨t, ht, exec_keeps_err ht⟩
  case words =>
    obtain ⟨-, t, -, -, ht, herr⟩ := commandEffect_of_legal d s hc
    exact ⟨t, ht, herr⟩

theorem initialised_of_running {s : State} {busy : Nat} (h : s.stage = .running busy) : s.initialised = true := by
  simp [initialised_iff, h]

/-- A block with no busy cycles left accepts the command presented to it (R38). -/
theorem accepts_present_of_running_zero {s : State} (c : Byte) (d : Word) (h : s.stage = .running 0) :
    s.accepts (PortIn.present c d) = true :=
  (accepts_iff s _).mpr ⟨rfl, rfl, cmdReady_running s 0 h⟩

/-- The step at which a ready block takes a word: its effect on the registers, then the busy cycles of its `op` value,
legal or not (R38, R63, R75). -/
theorem step_of_ready {c : Byte} {d : Word} {s u : State} {rest : List HostEvent} (hready : s.stage = .running 0)
    (hin : s.inputs = .edge (PortIn.present c d) :: rest) (hu : commandEffect c d s = .next u) :
    step s = .next (u.afterAccept Config.cmdLatency c) :=
  stepWith_accept _ hin (initialised_of_running hready) (accepts_present_of_running_zero c d hready) hu

/-- Settles O28: an illegal word sets `ERR` and then goes through the handshake as any accepted word does. -/
theorem illegalCommandSetsErrOnly : Obligations.IllegalCommandSetsErrOnly := by
  intro c d s rest
  refine ⟨fun hc => ?illegal, fun hc => ?legal⟩
  case illegal =>
    have heffect : commandEffect c d s = .next s.setErr := commandEffect_of_illegal d s hc
    refine ⟨heffect, fun hready hin => ?_⟩
    have hrest : rest = s.inputs.tail := by rw [hin, List.tail_cons]
    rw [step_of_ready hready hin heffect, hrest]
    rfl
  case legal =>
    obtain ⟨i, hi⟩ := (exists_decode_iff c d).mpr hc
    exact ⟨i, hi, commandEffect_of_decode s hi⟩

theorem accepts_eq_false_of_rst (s : State) {p : PortIn} (h : p.rst = true) : s.accepts p = false := by
  simp [State.accepts, h]

theorem acceptedHere_of_nextEvent {s : State} {p : PortIn} (h : s.nextEvent = .edge p) :
    s.acceptedHere = if s.initialised && s.accepts p then [(p.cmd, p.din)] else [] := by
  rw [State.acceptedHere, h]

theorem acceptedHere_eq_nil {s : State} {p : PortIn} (h : s.nextEvent = .edge p) (ha : s.accepts p = false) :
    s.acceptedHere = [] := by
  simp [acceptedHere_of_nextEvent h, ha]

theorem acceptedHere_eq_singleton {s : State} {p : PortIn} (h : s.nextEvent = .edge p) (hi : s.initialised = true)
    (ha : s.accepts p = true) : s.acceptedHere = [(p.cmd, p.din)] := by
  simp [acceptedHere_of_nextEvent h, hi, ha]

/-- Settles O30: a word is legal or illegal, each with its one event, and a reset edge looks at nothing but `rst`. -/
theorem resetTakesPrecedence : Obligations.ResetTakesPrecedence := by
  refine ⟨fun c d s => ?oneEvent, fun s p q rest hp hq => ⟨?notAccepted, ?nothingHere, ?sameStep⟩⟩
  case oneEvent =>
    cases hc : legal c with
    | true => exact .inl ⟨rfl, commandEffect_of_legal d s hc⟩
    | false => exact .inr ⟨rfl, commandEffect_of_illegal d s hc⟩
  case notAccepted => exact accepts_eq_false_of_rst s hp
  case nothingHere => exact acceptedHere_eq_nil rfl (accepts_eq_false_of_rst _ hp)
  case sameStep => rw [step_reset_cons s rest hp, step_reset_cons s rest hq]

end Sys2Proof.Machine
end

section
/-! Runs of a block that is neither reset nor left without power: what each step does to the registers (R38), and when
`ERR` is set at the end (R64). -/

namespace Sys2Proof.Machine

theorem run_succ_next {n : Nat} {s t : State} (h : run (n + 1) s = .next t) :
    ∃ u, step s = .next u ∧ run n u = .next t := by
  rw [run, runWith] at h
  split at h
  · exact ⟨_, ‹_›, h⟩
  · cases h
  · cases h

theorem acceptedBy_succ {s u : State} (n : Nat) (h : step s = .next u) :
    acceptedBy (n + 1) s = s.acceptedHere ++ acceptedBy n u := by
  rw [acceptedBy, h]

theorem undisturbed_succ_iff {s : State} {e : HostEvent} {rest : List HostEvent} (n : Nat) (hin : s.inputs = e :: rest) :
    s.undisturbed (n + 1) = true ↔ e.keepsRunning = true ∧ (rest.take n).all HostEvent.keepsRunning = true := by
  rw [State.undisturbed, hin, List.take_succ_cons, List.all_cons, Bool.and_eq_true]

/-- Past the end of its list the host idles, which disturbs nothing (assumption log 2). -/
theorem nextEvent_keepsRunning {n : Nat} {s : State} (h : s.undisturbed (n + 1) = true) :
    s.nextEvent.keepsRunning = true := by
  cases hin : s.inputs with
  | nil => simp [State.nextEvent, hin, HostEvent.keepsRunning, PortIn.idle]
  | cons e rest =>
    obtain ⟨he, -⟩ := (undisturbed_succ_iff n hin).mp h
    rw [nextEvent_cons s e rest hin, he]

theorem undisturbed_of_inputs_tail {n : Nat} {s t : State} (h : s.undisturbed (n + 1) = true)
    (ht : t.inputs = s.inputs.tail) : t.undisturbed n = true := by
  rw [State.undisturbed, ht]
  cases hin : s.inputs with
  | nil => simp
  | cons e rest =>
    obtain ⟨-, hrest⟩ := (undisturbed_succ_iff n hin).mp h
    exact hrest

theorem quietEdge_initialised {s : State} (h : s.initialised = true) : s.quietEdge.initialised = true := by
  rw [initialised_iff] at h ⊢
  cases hg : s.stage with
  | beforeReset => exact absurd hg h
  | afterReset => simp [State.quietEdge, hg, Stage.tickDown]
  | running busy => simp [State.quietEdge, hg, Stage.tickDown]

/-- What a step with no reset and no power gap can do to the registers: nothing, or the effect of the one command it
accepts. The rules hold after it as before it (R38, R74). -/
theorem step_next_of_keepsRunning {s t : State} (hi : s.initialised = true)
    (hk : s.nextEvent.keepsRunning = true) (h : step s = .next t) :
    t.initialised = true ∧ t.inputs = s.inputs.tail ∧
      ((s.acceptedHere = [] ∧ t.regs = s.regs) ∨
        ∃ c d u, s.acceptedHere = [(c, d)] ∧ commandEffect c d s = .next u ∧ t.regs = u.regs) := by
  obtain ⟨hgap, -⟩ | ⟨p, hp, hedge⟩ := stepWith_next h
  · simp [hgap, HostEvent.keepsRunning] at hk
  have hrst : p.rst = false := by simpa [hp, HostEvent.keepsRunning] using hk
  obtain ⟨hreset, -⟩ | ⟨-, hbefore, -⟩ | ⟨-, -, ha, u, hu, rfl⟩ | ⟨-, -, ha, rfl⟩ := edgeWith_next hedge
  · simp [hrst] at hreset
  · exact absurd hbefore ((initialised_iff s).mp hi)
  · obtain ⟨-, hinputs, -⟩ := commandEffect_keeps_port hu
    refine ⟨rfl, congrArg List.tail hinputs, .inr ⟨p.cmd, p.din, u, acceptedHere_eq_singleton hp hi ha, hu, ?_⟩⟩
    exact afterAccept_regs _ _ u
  · exact ⟨quietEdge_initialised hi, rfl, .inl ⟨acceptedHere_eq_nil hp ha, quietEdge_regs s⟩⟩

theorem regErr_eq_of_regs {s t : State} (h : t.regs = s.regs) : t.regErr = s.regErr :=
  congrArg (fun r => r.2.2) h

/-- After a command `ERR` is set exactly if it was set before or the command was illegal (R62, R63). -/
theorem commandEffect_err_iff {c : Byte} {d : Word} {s t : State} (h : commandEffect c d s = .next t) :
    t.regErr = 1#1 ↔ s.regErr = 1#1 ∨ legal c = false := by
  cases hc : legal c with
  | true =>
    obtain ⟨-, t', -, -, ht', herr⟩ := commandEffect_of_legal d s hc
    obtain rfl : t' = t := by injection ht'.symm.trans h
    simp [herr]
  | false =>
    obtain rfl : s.setErr = t := by injection (commandEffect_of_illegal d s hc).symm.trans h
    simp

/-- The step form of stickiness: nothing clears `ERR`, and only an accepted illegal word sets it (R64). -/
theorem step_err_iff {s t : State} (hi : s.initialised = true) (hk : s.nextEvent.keepsRunning = true)
    (h : step s = .next t) : t.regErr = 1#1 ↔ s.regErr = 1#1 ∨ ∃ p ∈ s.acceptedHere, legal p.1 = false := by
  obtain ⟨-, -, ⟨hnone, hregs⟩ | ⟨c, d, u, hone, hu, hregs⟩⟩ := step_next_of_keepsRunning hi hk h
  · simp [regErr_eq_of_regs hregs, hnone]
  · simp [regErr_eq_of_regs hregs, hone, commandEffect_err_iff hu]

/-- At the end of an undisturbed run `ERR` is set exactly if it was set at its start or the run accepted an illegal
word (R64). -/
theorem run_err_iff {n : Nat} {s t : State} (hi : s.initialised = true) (hn : s.undisturbed n = true)
    (h : run n s = .next t) : t.regErr = 1#1 ↔ s.regErr = 1#1 ∨ ∃ p ∈ acceptedBy n s, legal p.1 = false := by
  induction n generalizing s with
  | zero =>
    obtain rfl : s = t := by injection h
    simp [acceptedBy]
  | succ n ih =>
    obtain ⟨u, hu, hrun⟩ := run_succ_next h
    have hk := nextEvent_keepsRunning hn
    obtain ⟨hui, hinputs, -⟩ := step_next_of_keepsRunning hi hk hu
    calc t.regErr = 1#1
        ↔ u.regErr = 1#1 ∨ ∃ p ∈ acceptedBy n u, legal p.1 = false :=
          ih hui (undisturbed_of_inputs_tail hn hinputs) hrun
      _ ↔ (s.regErr = 1#1 ∨ ∃ p ∈ s.acceptedHere, legal p.1 = false) ∨
            ∃ p ∈ acceptedBy n u, legal p.1 = false := by rw [step_err_iff hi hk hu]
      _ ↔ s.regErr = 1#1 ∨ ∃ p ∈ acceptedBy (n + 1) s, legal p.1 = false := by
          simp only [acceptedBy_succ n hu, List.mem_append, or_and_right, exists_or, or_assoc]

/-- No command reads `ERR` (R64). -/
theorem exec_withErr {i : Instr} {s t : State} (e : BitVec 1) (h : exec i s = .next t) :
    exec i { s with regErr := e } = .next { t with regErr := e } := by
  cases i <;> (injection h with h; subst h; rfl)

/-- An accepted word does to `S` and `DOUT` the same whatever `ERR` is (R64). -/
theorem commandEffect_blind_to_err (c : Byte) (d : Word) (s : State) (e : BitVec 1) : ∃ t t',
    commandEffect c d s = .next t ∧ commandEffect c d { s with regErr := e } = .next t' ∧
      t'.regS = t.regS ∧ t'.regDout = t.regDout := by
  cases hc : legal c with
  | true =>
    obtain ⟨i, t, hi, hexec, ht, -⟩ := commandEffect_of_legal d s hc
    exact ⟨t, _, ht, (commandEffect_of_decode _ hi).trans (exec_withErr e hexec), rfl, rfl⟩
  | false => exact ⟨_, _, commandEffect_of_illegal d _ hc, commandEffect_of_illegal d _ hc, rfl, rfl⟩

/-- Settles O29: both clauses about a run are the equivalence `run_err_iff`, read from `ERR = 1` and from `ERR = 0`. -/
theorem errStaysUntilReset : Obligations.ErrStaysUntilReset := by
  refine ⟨fun n s t hi hn h => ⟨fun hset => ?stays, fun hclear => ?becomesSet⟩, commandEffect_blind_to_err,
    State.resetEdge_regErr⟩
  case stays => exact (run_err_iff hi hn h).mpr (.inl hset)
  case becomesSet =>
    have hnotSet : s.regErr ≠ 1#1 := by rw [hclear]; decide
    rw [run_err_iff hi hn h, or_iff_right hnotSet]

end Sys2Proof.Machine
end

section
/-! Reset and the edge after it (R71, R72). -/

namespace Sys2Proof.Machine

/-- Settles O32: which edge it is depends on `rst` alone, and a reset edge writes every register and the stage, whatever
they were. -/
theorem resetEdgeIsComplete : Obligations.ResetEdgeIsComplete := by
  intro s p rest hrst hin
  have hinputs : s.resetEdge.inputs = rest := congrArg List.tail hin
  refine ⟨acceptedHere_eq_nil (nextEvent_cons s _ rest hin) (accepts_eq_false_of_rst s hrst), s.resetEdge,
    stepWith_reset _ hin hrst, s.resetEdge_regS, s.resetEdge_regDout, s.resetEdge_regErr, rfl, ?notReady, hinputs⟩
  case notReady => exact cmdReady_afterReset _ rfl

/-- While `cmd_ready` is 0 no command is accepted, whatever the host drives (R38). -/
theorem accepts_eq_false_of_not_ready {s : State} (p : PortIn) (h : s.cmdReady = false) : s.accepts p = false := by
  simp [State.accepts, h]

@[simp] theorem quietEdge_stage (s : State) : s.quietEdge.stage = s.stage.tickDown := rfl

@[simp] theorem quietEdge_inputs (s : State) : s.quietEdge.inputs = s.inputs.tail := rfl

/-- A block with no busy cycles left takes the command at the head of the host's events (R38). -/
theorem acceptedHere_of_ready {s : State} {c : Byte} {d : Word} {rest : List HostEvent} (hready : s.stage = .running 0)
    (hin : s.inputs = .edge (PortIn.present c d) :: rest) : s.acceptedHere = [(c, d)] :=
  acceptedHere_eq_singleton (nextEvent_cons s _ rest hin) (initialised_of_running hready)
    (accepts_present_of_running_zero c d hready)

/-- Settles O33: in the cycle after a reset edge `cmd_ready` is 0, so the edge that ends it is a quiet one, and what a quiet
edge leaves there is a ready block. -/
theorem leavingResetTakesOneEdge : Obligations.LeavingResetTakesOneEdge := by
  intro s p c d rest hstage hrst hin
  have hinit : s.initialised = true := by simp [initialised_iff, hstage]
  have hrefuses : s.accepts p = false := accepts_eq_false_of_not_ready p (cmdReady_afterReset s hstage)
  have hready : s.quietEdge.stage = .running 0 := by rw [quietEdge_stage, hstage, Stage.tickDown]
  have hnext : s.quietEdge.inputs = .edge (PortIn.present c d) :: rest := by rw [quietEdge_inputs, hin, List.tail_cons]
  exact ⟨acceptedHere_eq_nil (nextEvent_cons s _ _ hin) hrefuses, s.quietEdge, stepWith_quiet _ hin hinit hrst hrefuses,
    quietEdge_regs s, cmdReady_running _ 0 hready, acceptedHere_of_ready hready hnext⟩

end Sys2Proof.Machine
end

section
/-! Saving and resuming a computation (R78, R79): the fold loses nothing of the state it starts from, so the state LOAD
writes decides the result. -/

namespace Sys2Proof.Machine

/-- Settles O24: LOAD writes back the `S` that RDSTATE copied out, and the feeding folds on from it. -/
theorem saveAndResume : Obligations.SaveAndResume := by
  intro s u
  refine ⟨s.setDout s.regS, u.setS s.regS, exec_rdstate s, exec_load _ u, rfl, fun cs hcs => ?resumed⟩
  case resumed =>
    obtain ⟨w, hw, hwS⟩ := runCommands_folds_fedMessage (u.setS s.regS) hcs
    rw [State.setS_regS] at hwS
    refine ⟨w, hw, hwS, fun m₁ hm₁ => ?_⟩
    rw [hwS, hm₁, crcUpdate_append]

/-- `POLY` has its top bit set and the shift clears it, so the top bit of a step tells whether `POLY` was XORed in (R17). -/
theorem shiftStep_top_bit (c : Word) : (shiftStep c).getLsbD 31 = c.getLsbD 0 := by
  cases hc : c.getLsbD 0 with
  | true =>
    rw [shiftStep, hc, if_pos rfl]
    simp [Config.poly]
  | false =>
    rw [shiftStep, hc, if_neg Bool.false_ne_true]
    simp

theorem eq_zero_of_shiftStep_eq_zero {c : Word} (h : shiftStep c = 0#32) : c = 0#32 := by
  have hlow : c.getLsbD 0 = false := by rw [← shiftStep_top_bit, h, BitVec.getLsbD_zero]
  have hshift : c >>> 1 = 0#32 := by rwa [shiftStep, hlow, if_neg Bool.false_ne_true] at h
  refine BitVec.eq_of_getLsbD_eq fun k _ => ?_
  cases k with
  | zero => rw [hlow, BitVec.getLsbD_zero]
  | succ k =>
    have hk : (c >>> 1).getLsbD k = false := by rw [hshift, BitVec.getLsbD_zero]
    simpa [Nat.add_comm] using hk

/-- The shift register loses nothing: by linearity two states with the same next state differ by one that goes to 0. -/
theorem shiftStep_injective : Function.Injective shiftStep := by
  intro a b h
  have hzero : shiftStep (a ^^^ b) = 0#32 := by rw [shiftStep_xor, h, BitVec.xor_self]
  exact BitVec.xor_eq_zero_iff.mp (eq_zero_of_shiftStep_eq_zero hzero)

theorem shiftSteps_injective (k : Nat) : Function.Injective (shiftSteps k) := by
  induction k with
  | zero => exact fun _ _ h => h
  | succ k ih => exact ih.comp shiftStep_injective

/-- In its bit-serial form (R57) the one-byte step is an XOR with the byte and eight steps of the shift register. -/
theorem crcByte_injective (b : Byte) : Function.Injective (crcByte · b) := by
  intro s s' h
  have hsteps : shiftSteps 8 (s ^^^ b.setWidth 32) = shiftSteps 8 (s' ^^^ b.setWidth 32) :=
    (bitSerialEquivalence s b).symm.trans (h.trans (bitSerialEquivalence s' b))
  exact (BitVec.xor_left_inj _).mp (shiftSteps_injective 8 hsteps)

/-- Two computations that are fed the same message and end in the same state started from the same state. -/
theorem crcUpdate_injective (m : List Byte) : Function.Injective (crcUpdate · m) := by
  induction m with
  | nil => exact fun _ _ h => h
  | cons b m ih => exact ih.comp (crcByte_injective b)

theorem finalize_ne_self (v : Word) : finalize v ≠ v := by
  intro h
  have hbit : (~~~v).getLsbD 0 = v.getLsbD 0 := by rw [← finalize_eq_not, h]
  simp at hbit

/-- A sequence of legal words leaves `ERR` as it was (R62). -/
theorem runCommands_keeps_err {cs : List (Byte × Word)} {s t : State} (hlegal : ∀ p ∈ cs, legal p.1 = true)
    (h : runCommands cs s = .next t) : t.regErr = s.regErr := by
  induction cs generalizing s with
  | nil =>
    obtain rfl : s = t := by injection h
    rfl
  | cons cd rest ih =>
    obtain ⟨c, d⟩ := cd
    obtain ⟨hc, hrest⟩ := List.forall_mem_cons.mp hlegal
    obtain ⟨-, u, -, -, hu, herr⟩ := commandEffect_of_legal d s hc
    rw [runCommands_cons rest hu] at h
    exact (ih hrest h).trans herr

/-- Settles O25: the resumed fold starts from `S ^ XOROUT`, which is not `S`, and the fold keeps the two apart. -/
theorem doubleXorHazard : Obligations.DoubleXorHazard := by
  intro s u
  refine ⟨s.setDout (finalize s.regS), u.setS (finalize s.regS), exec_final s, exec_load _ u, fun cs hcs hlegal => ?resumed⟩
  case resumed =>
    obtain ⟨w, hw, hwS⟩ := runCommands_folds_fedMessage (u.setS (finalize s.regS)) hcs
    rw [State.setS_regS] at hwS
    have hwErr : w.regErr = u.regErr := (runCommands_keeps_err hlegal hw).trans (State.setS_regErr u _)
    refine ⟨w, hw, hwS, fun hsame => ?concatenated, hwErr⟩
    case concatenated => exact finalize_ne_self s.regS (crcUpdate_injective (fedMessage cs) (hwS.symm.trans hsame))

end Sys2Proof.Machine
end

section
/-! The busy cycles after an acceptance (R75). -/

namespace Sys2Proof.Machine

theorem keepsRunning_iff (e : HostEvent) : e.keepsRunning = true ↔ ∃ p, e = .edge p ∧ p.rst = false := by
  cases e with
  | edge p => simp [HostEvent.keepsRunning]
  | powerGap => simp [HostEvent.keepsRunning]

/-- The quiet edge of `stepWith_quiet`, for the idle edges past the end of the host's list too (assumption log 2). -/
theorem stepWith_quiet_of_nextEvent (lat : BitVec 4 → Nat) {s : State} {p : PortIn} (hp : s.nextEvent = .edge p)
    (hi : s.initialised = true) (hrst : p.rst = false) (ha : s.accepts p = false) :
    stepWith lat s = .next s.quietEdge := by
  have hedge : stepWith lat s = edgeWith lat p s := by rw [stepWith, hp]
  rw [hedge, edgeWith, if_neg (by simp [hrst]), if_neg ((initialised_iff s).mp hi), if_neg (by simp [ha])]

/-- While busy cycles are left the block takes one of them per edge, whatever the host presents (R38, R75). -/
theorem step_of_busy {s : State} {busy : Nat} (hbusy : s.stage = .running (busy + 1))
    (hk : s.nextEvent.keepsRunning = true) : s.acceptedHere = [] ∧ step s = .next s.quietEdge := by
  obtain ⟨p, hp, hrst⟩ := (keepsRunning_iff _).mp hk
  have hrefuses : s.accepts p = false := accepts_eq_false_of_not_ready p (cmdReady_running s _ hbusy)
  exact ⟨acceptedHere_eq_nil hp hrefuses, stepWith_quiet_of_nextEvent _ hp (initialised_of_running hbusy) hrst hrefuses⟩

theorem run_zero (s : State) : run 0 s = .next s := rfl

theorem run_succ {s t : State} (n : Nat) (h : step s = .next t) : run (n + 1) s = run n t := runWith_succ n h

/-- `n` of the busy cycles go by with nothing accepted and no register changed, and `cmd_ready` stays low for the rest. -/
theorem run_of_busy {n busy : Nat} {s : State} (hbusy : s.stage = .running (busy + n))
    (hn : s.undisturbed n = true) :
    acceptedBy n s = [] ∧ ∃ t, run n s = .next t ∧ t.regs = s.regs ∧ t.stage = .running busy := by
  induction n generalizing s with
  | zero => exact ⟨rfl, s, run_zero s, rfl, hbusy⟩
  | succ n ih =>
    obtain ⟨hnone, hstep⟩ := step_of_busy hbusy (nextEvent_keepsRunning hn)
    have hbusy' : s.quietEdge.stage = .running (busy + n) := by rw [quietEdge_stage, hbusy]; rfl
    obtain ⟨haccepted, t, hrun, hregs, hstage⟩ := ih hbusy' (undisturbed_of_inputs_tail hn (quietEdge_inputs s))
    refine ⟨?_, t, (run_succ n hstep).trans hrun, hregs, hstage⟩
    rw [acceptedBy_succ n hstep, hnone, haccepted, List.nil_append]

/-- With no latency (R6) a ready block is ready again after every edge but a reset. -/
theorem stepWith_zero_latency_ready {s t : State} (hready : s.stage = .running 0)
    (hk : s.nextEvent.keepsRunning = true) (h : stepWith (fun _ => 0) s = .next t) : t.stage = .running 0 := by
  obtain ⟨p, hp, hrst⟩ := (keepsRunning_iff _).mp hk
  obtain ⟨hgap, -⟩ | ⟨p', hp', hedge⟩ := stepWith_next h
  · cases hp.symm.trans hgap
  obtain rfl : p = p' := by injection hp.symm.trans hp'
  obtain ⟨hreset, -⟩ | ⟨-, hbefore, -⟩ | ⟨-, -, -, u, -, rfl⟩ | ⟨-, -, -, rfl⟩ := edgeWith_next hedge
  · cases hrst.symm.trans hreset
  · cases hready.symm.trans hbefore
  · rfl
  · rw [quietEdge_stage, hready, Stage.tickDown]

/-- Settles O37: the acceptance sets the busy count to the latency, and `j` of those cycles leave `latency - j` of them. -/
theorem latencyThenReady : Obligations.LatencyThenReady := by
  refine ⟨fun s c d rest hready hin hrest => ?busyCycles, fun s t hready hk h => ?noLatency⟩
  case noLatency => exact cmdReady_running t 0 (stepWith_zero_latency_ready hready hk h)
  case busyCycles =>
    obtain ⟨u, hu⟩ := commandEffect_total c d s
    refine ⟨u, hu, fun j hj => ?_⟩
    have hstep := step_of_ready hready hin hu
    obtain ⟨-, hinputs, -⟩ := commandEffect_keeps_port hu
    have hafter : (u.afterAccept Config.cmdLatency c).inputs = rest := congrArg List.tail (hinputs.trans hin)
    have hundisturbed : (u.afterAccept Config.cmdLatency c).undisturbed j = true := by
      rw [State.undisturbed, hafter]
      exact List.all_eq_true.mpr fun e he => List.all_eq_true.mp hrest e (List.take_subset_take_left rest hj he)
    obtain ⟨busy, hbusy⟩ := Nat.exists_eq_add_of_le' hj
    have hstage : (u.afterAccept Config.cmdLatency c).stage = .running (busy + j) := congrArg Stage.running hbusy
    obtain ⟨haccepted, t, hrun, hregs, htstage⟩ := run_of_busy hstage hundisturbed
    refine ⟨t, (run_succ j hstep).trans hrun, hregs.trans (afterAccept_regs _ _ u), ?ready, ?onlyThisOne⟩
    case ready =>
      rw [cmdReady_running t busy htstage, beq_iff_eq]
      omega
    case onlyThisOne =>
      rw [acceptedBy_succ j hstep, acceptedHere_of_ready hready hin, haccepted, List.append_nil]

end Sys2Proof.Machine
end

section
/-! The encoder and the decoder are inverse to each other on well-formed commands and legal words (R42, R44, R47). -/

namespace Sys2Proof

theorem wf_update_iff (n : BitVec 2) (v : Word) :
    (Instr.update n v).wf = true ↔ v.toNat < 2 ^ (8 * (n.toNat + 1)) := decide_eq_true_iff

/-- An operand no wider than UPDATE's bytes has nothing for the decoder to clear (R45, R47). -/
theorem lowBytes_of_wf {n : BitVec 2} {v : Word} (h : (Instr.update n v).wf = true) : lowBytes n v = v := by
  rw [lowBytes, Nat.mod_eq_of_lt ((wf_update_iff n v).mp h), BitVec.ofNat_toNat, BitVec.setWidth_eq]

/-- What the decoder keeps of `din` is no wider than UPDATE's bytes. -/
theorem wf_update_lowBytes (n : BitVec 2) (d : Word) : (Instr.update n (lowBytes n d)).wf = true := by
  rw [wf_update_iff, lowBytes, BitVec.toNat_ofNat]
  exact (Nat.mod_le _ _).trans_lt (Nat.mod_lt _ (Nat.two_pow_pos _))

/-- RDTAB's index stands in the low byte of its operand word (R44). -/
theorem extractLsb'_setWidth_byte (i : Byte) : (i.setWidth 32).extractLsb' 0 8 = i := by
  rw [BitVec.extractLsb'_setWidth_of_le (by decide), BitVec.extractLsb'_eq_self]

/-- Settles O1: each encoded word is one the decoder knows, and the operand comes back as a whole; UPDATE's does
because it is no wider than its bytes. -/
theorem decodeEncodeRoundTrip : Obligations.DecodeEncodeRoundTrip := by
  intro i hwf
  cases i with
  | nop => exact decode_nopWord _
  | init => exact decode_initWord _
  | load v => exact decode_loadWord v
  | update n v => rw [encode, decode_updateWord, lowBytes_of_wf hwf]
  | rdstate => exact decode_rdstateWord _
  | final => exact decode_finalWord _
  | rdtab idx => rw [encode, decode_rdtabWord, extractLsb'_setWidth_byte]

/-- Settles O2: run through the legal words. Where the operand is cut from `din` (UPDATE, RDTAB), its bits are the
used bits of `din` with zeros above them. -/
theorem encodeDecodeCanonical : Obligations.EncodeDecodeCanonical := by
  intro c d i h
  have hnone : (∀ k, k < 0 → (0#32).getLsbD k = d.getLsbD k) ∧ ∀ k, 0 ≤ k → (0#32).getLsbD k = false :=
    ⟨fun k hk => absurd hk k.not_lt_zero, fun _ _ => BitVec.getLsbD_zero⟩
  obtain rfl | rfl | rfl | ⟨n, rfl⟩ | rfl | rfl | rfl := legal_cases (legal_of_decode h)
  · obtain rfl : Instr.nop = i := by injection (decode_nopWord d).symm.trans h
    exact ⟨rfl, rfl, hnone⟩
  · obtain rfl : Instr.init = i := by injection (decode_initWord d).symm.trans h
    exact ⟨rfl, rfl, hnone⟩
  · obtain rfl : Instr.load d = i := by injection (decode_loadWord d).symm.trans h
    exact ⟨rfl, rfl, fun _ _ => rfl, fun k hk => BitVec.getLsbD_of_ge d k hk⟩
  · obtain rfl : Instr.update n (lowBytes n d) = i := by injection (decode_updateWord n d).symm.trans h
    rw [usedDinBits_updateWord]
    refine ⟨wf_update_lowBytes n d, rfl, fun k hk => ?_, fun k hk => ?_⟩
    · simp only [encode, getLsbD_lowBytes, hk, decide_true, Bool.true_and]
    · simp only [encode, getLsbD_lowBytes, hk.not_gt, decide_false, Bool.false_and]
  · obtain rfl : Instr.rdstate = i := by injection (decode_rdstateWord d).symm.trans h
    exact ⟨rfl, rfl, hnone⟩
  · obtain rfl : Instr.final = i := by injection (decode_finalWord d).symm.trans h
    exact ⟨rfl, rfl, hnone⟩
  · obtain rfl : Instr.rdtab (d.extractLsb' 0 8) = i := by injection (decode_rdtabWord d).symm.trans h
    have hused : usedDinBits 0x60#8 = 8 := rfl
    rw [hused]
    refine ⟨rfl, rfl, fun k hk => ?_, fun k hk => ?_⟩
    · have hk32 : k < 32 := by omega
      simp [encode, hk, hk32]
    · simp [encode, hk.not_gt]

/-- Settles O6: each word is the one of its row, and UPDATE.2 keeps the two low bytes of its operand word. -/
theorem wordsWrittenOutDecode : Obligations.WordsWrittenOutDecode := by
  have hlow : lowBytes 1#2 0xAB003231#32 = 0x00003231#32 := by decide
  exact ⟨decode_nopWord _, decode_initWord _, decode_loadWord _, hlow ▸ decode_updateWord 1#2 0xAB003231#32,
    decode_rdstateWord _, decode_finalWord _, decode_rdtabWord _⟩

end Sys2Proof
end

section
/-! What every step keeps (R71, R75), that every step proceeds (R62, R63), and what the latencies do not reach (R6). -/

namespace Sys2Proof.Machine

theorem inv_of_beforeReset {s : State} (h : s.stage = .beforeReset) : s.Inv := by simp [State.Inv, h]

theorem inv_of_afterReset {s : State} (h : s.stage = .afterReset) (hregs : s.regs = resetRegValues) : s.Inv := by
  simpa only [State.Inv, h]

theorem inv_iff_of_running {s : State} {busy : Nat} (h : s.stage = .running busy) :
    s.Inv ↔ ∃ op, busy ≤ Config.cmdLatency op := by
  simp only [State.Inv, h]

theorem resetEdge_regs (s : State) : s.resetEdge.regs = resetRegValues := rfl

/-- An edge that changes no register leaves a ready block after reset, and one busy cycle fewer later on (R72, R75). -/
theorem inv_quietEdge {s : State} (hbefore : s.stage ≠ .beforeReset) (hinv : s.Inv) : s.quietEdge.Inv := by
  cases hg : s.stage with
  | beforeReset => exact absurd hg hbefore
  | afterReset =>
    have hready : s.quietEdge.stage = .running 0 := by rw [quietEdge_stage, hg, Stage.tickDown]
    exact (inv_iff_of_running hready).mpr ⟨0#4, Nat.zero_le _⟩
  | running busy =>
    have hfewer : s.quietEdge.stage = .running (busy - 1) := by rw [quietEdge_stage, hg, Stage.tickDown]
    obtain ⟨op, hop⟩ := (inv_iff_of_running hg).mp hinv
    exact (inv_iff_of_running hfewer).mpr ⟨op, (Nat.sub_le _ _).trans hop⟩

/-- Settles O44, by the five things a step can do: an acceptance sets the busy cycles to the latency of its opcode,
and only a quiet edge needs the invariant of the state before it. -/
theorem stepKeepsInvariant : Obligations.StepKeepsInvariant := by
  intro s t hinv hstep
  obtain ⟨-, rfl⟩ | ⟨p, -, hedge⟩ := stepWith_next hstep
  · exact inv_of_beforeReset rfl
  obtain ⟨-, rfl⟩ | ⟨-, -, rfl⟩ | ⟨-, -, -, u, -, rfl⟩ | ⟨-, hbefore, -, rfl⟩ := edgeWith_next hedge
  case inl => exact inv_of_afterReset rfl (resetEdge_regs s)
  case inr.inl => exact inv_of_beforeReset rfl
  case inr.inr.inl => exact (inv_iff_of_running rfl).mpr ⟨opField p.cmd, le_rfl⟩
  case inr.inr.inr => exact inv_quietEdge hbefore hinv

/-- Settles O45: the reset state stands in the cycle after a reset edge, with the values of R14. -/
theorem resetMeetsInvariant : Obligations.ResetMeetsInvariant := inv_of_afterReset rfl rfl

/-- An edge proceeds whatever the latencies are, and they only decide the stage it leaves (R6, R62, R63). -/
theorem edgeWith_regs_eq (lat lat' : BitVec 4 → Nat) (p : PortIn) (s : State) :
    ∃ t t', edgeWith lat p s = .next t ∧ edgeWith lat' p s = .next t' ∧ t.regs = t'.regs := by
  unfold edgeWith
  split
  · exact ⟨_, _, rfl, rfl, rfl⟩
  split
  · exact ⟨_, _, rfl, rfl, rfl⟩
  split
  · obtain ⟨u, hu⟩ := commandEffect_total p.cmd p.din s
    exact ⟨u.afterAccept lat p.cmd, u.afterAccept lat' p.cmd, by rw [acceptEdge, hu], by rw [acceptEdge, hu], rfl⟩
  · exact ⟨_, _, rfl, rfl, rfl⟩

/-- Settles O42: a power gap reads no latency, and an edge leaves the same registers for both. -/
theorem latencyChangesNoRegister : Obligations.LatencyChangesNoRegister := by
  intro lat lat' s
  unfold stepWith
  split
  · exact edgeWith_regs_eq lat lat' _ s
  · exact ⟨_, _, rfl, rfl, rfl⟩

/-- Settles O43: a step proceeds for every choice of the latencies. -/
theorem everyStepProceeds : Obligations.EveryStepProceeds := by
  intro s
  obtain ⟨t, -, ht, -, -⟩ := latencyChangesNoRegister Config.cmdLatency Config.cmdLatency s
  exact ⟨t, ht⟩

/-- Settles O36: the port fields that the acceptance reads are those of the state before the command, since no command
writes them. -/
theorem stepRunsDecodedCommand : Obligations.StepRunsDecodedCommand := by
  intro s t c d i rest hready hin hi ht
  obtain ⟨-, hinputs, htick⟩ := exec_keeps_port ht
  have hrest : t.inputs.tail = rest := by rw [hinputs, hin, List.tail_cons]
  rw [step_of_ready hready hin ((commandEffect_of_decode s hi).trans ht), State.afterAccept, State.advance, hrest,
    htick]
  rfl

/-- Settles O48: a reset edge writes every register in every state, the one after a power gap too. -/
theorem resetRecoversFromPowerGap : Obligations.ResetRecoversFromPowerGap := by
  refine ⟨fun s p rest _ hrst hin => ?beforeReset, fun s p rest hrst hin => ?powerGap⟩
  case beforeReset => exact ⟨s.resetEdge, stepWith_reset _ hin hrst, resetEdge_regs s, rfl⟩
  case powerGap =>
    have hgap : step s = .next s.losePower := by rw [step, stepWith, nextEvent_cons s _ _ hin]
    have hin' : s.losePower.inputs = .edge p :: rest := congrArg List.tail hin
    exact ⟨s.losePower, s.losePower.resetEdge, hgap, rfl, stepWith_reset _ hin' hrst, resetEdge_regs _, rfl⟩

end Sys2Proof.Machine
end

section
/-! The bit order of the fold (R17, R21, R57), and the residue of a message followed by its own CRC (R35). -/

namespace Sys2Proof.Machine

/-- Bit `k` of a byte as the word the shift register takes it in as. -/
def bitWord (b : Byte) (k : Nat) : Word := if b.getLsbD k then 1#32 else 0#32

theorem shiftSteps_succ (k : Nat) (c : Word) : shiftSteps (k + 1) c = shiftStep (shiftSteps k c) :=
  shiftSteps_add k 1 c

theorem getLsbD_bitWord (b : Byte) (k j : Nat) : (bitWord b k).getLsbD j = (decide (j = 0) && b.getLsbD k) := by
  cases hb : b.getLsbD k <;> simp [bitWord, hb]

/-- A bit that stands `k` places up arrives at bit 0 after `k` steps. -/
theorem shiftSteps_bitWord_shiftLeft (b : Byte) {k : Nat} (hk : k < 32) :
    shiftSteps k (bitWord b k <<< k) = bitWord b k := by
  have hlow : ∀ j, j < k → (bitWord b k <<< k).getLsbD j = false := fun j hj => by simp [hj]
  rw [shiftSteps_of_low_zero hlow]
  refine BitVec.eq_of_getLsbD_eq fun j _ => ?_
  cases j with
  | zero => simp [hk]
  | succ j => simp [getLsbD_bitWord]

theorem setWidth_succ_byte (b : Byte) (k : Nat) :
    (b.setWidth (k + 1)).setWidth 32 = (b.setWidth k).setWidth 32 ^^^ bitWord b k <<< k := by
  refine BitVec.eq_of_getLsbD_eq fun j hj => ?_
  obtain hlt | rfl | hgt := Nat.lt_trichotomy j k
  · simp [hj, hlt, Nat.lt_succ_of_lt hlt]
  · have hbit : (bitWord b j)[0] = b.getLsbD j := getLsbD_bitWord b j 0
    simp [hj, hbit]
  · have hne : j - k ≠ 0 := Nat.sub_ne_zero_of_lt hgt
    have hout : ¬ j < k + 1 := by omega
    simp [getLsbD_bitWord, hne, hout, hgt.not_gt]

/-- The bits 0 to `k - 1` of a byte folded in one at a time: since the register is linear, each can wait in its own
place until it arrives at bit 0. -/
theorem foldl_shiftStep_bits (s : Word) (b : Byte) {k : Nat} (hk : k ≤ 32) :
    (List.range k).foldl (fun c j => shiftStep (c ^^^ bitWord b j)) s =
      shiftSteps k (s ^^^ (b.setWidth k).setWidth 32) := by
  induction k with
  | zero =>
    have hnone : (b.setWidth 0).setWidth 32 = 0#32 := BitVec.eq_of_getLsbD_eq fun j _ => by simp
    rw [List.range_zero, List.foldl_nil, hnone, BitVec.xor_zero, shiftSteps]
  | succ k ih =>
    rw [List.range_succ, List.foldl_append, ih (Nat.le_of_succ_le hk), List.foldl_cons, List.foldl_nil,
      setWidth_succ_byte b k, ← BitVec.xor_assoc, shiftSteps_succ, shiftSteps_xor k _ (bitWord b k <<< k),
      shiftSteps_bitWord_shiftLeft b hk]

theorem reverse_xor (x y : Word) : (x ^^^ y).reverse = x.reverse ^^^ y.reverse := by
  refine BitVec.eq_of_getLsbD_eq fun k _ => ?_
  simp [BitVec.getLsbD_reverse]

theorem reverse_ushiftRight_one (x : Word) : (x >>> 1).reverse = x.reverse <<< 1 := by
  refine BitVec.eq_of_getLsbD_eq fun k _ => ?_
  rw [BitVec.getLsbD_reverse, BitVec.getMsbD_ushiftRight, BitVec.getLsbD_shiftLeft, BitVec.getLsbD_reverse,
    Bool.and_assoc]

theorem reverse_poly : Config.poly.reverse = 0x04C11DB7#32 := by decide +kernel

/-- Settles O20: the byte-wise step is eight steps of the shift register (R57), taken one bit at a time by linearity;
and bit reversal turns the right shift into a left shift and bit 0 into the top bit. -/
theorem bytesFoldLeastSignificantBitFirst : Obligations.BytesFoldLeastSignificantBitFirst := by
  refine ⟨fun s b => ?bitByBit, fun c => ?reversed, reverse_poly⟩
  case bitByBit =>
    calc crcByte s b
        = shiftSteps 8 (s ^^^ (b.setWidth 8).setWidth 32) := by rw [bitSerialEquivalence, BitVec.setWidth_eq]
      _ = (List.range 8).foldl (fun c k => shiftStep (c ^^^ bitWord b k)) s :=
          (foldl_shiftStep_bits s b (by decide)).symm
  case reversed =>
    rw [BitVec.msb_reverse, shiftStep, apply_ite BitVec.reverse, reverse_xor, reverse_ushiftRight_one, reverse_poly]

theorem byteOf_ushiftRight_eight (k : Nat) (v : Word) : byteOf k (v >>> 8) = byteOf (k + 1) v := by
  have hplace (j : Nat) : 8 + (8 * k + j) = 8 * (k + 1) + j := by omega
  refine BitVec.eq_of_getLsbD_eq fun j _ => ?_
  simp only [byteOf, BitVec.getLsbD_extractLsb', BitVec.getLsbD_ushiftRight, hplace]

/-- The lowest byte of a word is folded in by eight steps with the whole word; the bytes above it wait. -/
theorem shiftSteps_eight_xor (s v : Word) : shiftSteps 8 (s ^^^ v) = crcByte s (byteOf 0 v) ^^^ v >>> 8 := by
  have hsplit (b : Word) : s ^^^ v = (s ^^^ b) ^^^ (v ^^^ b) := by
    rw [show (s ^^^ b) ^^^ (v ^^^ b) = (s ^^^ v) ^^^ (b ^^^ b) by ac_rfl, BitVec.xor_self, BitVec.xor_zero]
  have hupper : shiftSteps 8 (v ^^^ (byteOf 0 v).setWidth 32) = v >>> 8 := shiftSteps_eight_xor_low_byte v
  rw [hsplit ((byteOf 0 v).setWidth 32), shiftSteps_xor, ← bitSerialEquivalence, hupper]

/-- A whole little-endian word is folded in by 32 steps of the shift register (R22, R57). -/
theorem crcUpdate_le32 (s v : Word) : crcUpdate s (le32 v) = shiftSteps 32 (s ^^^ v) := by
  have hbyte (s v : Word) (k : Nat) :
      shiftSteps (k + 8) (s ^^^ v) = shiftSteps k (crcByte s (byteOf 0 v) ^^^ v >>> 8) := by
    rw [Nat.add_comm, shiftSteps_add, shiftSteps_eight_xor]
  symm
  calc shiftSteps 32 (s ^^^ v)
      = crcUpdate s (le32 v) ^^^ v >>> 8 >>> 8 >>> 8 >>> 8 := by
        rw [hbyte s v 24, hbyte _ _ 16, hbyte _ _ 8, hbyte _ _ 0]
        simp only [byteOf_ushiftRight_eight]
        rfl
    _ = crcUpdate s (le32 v) := by
        have hout : v >>> 8 >>> 8 >>> 8 >>> 8 = 0#32 := by
          simp only [← BitVec.shiftRight_add]
          exact BitVec.ushiftRight_eq_zero (by decide)
        rw [hout, BitVec.xor_zero]

/-- From any state, feeding a stored word leaves the residue exactly when the word is the finalized state: the register
loses nothing, and the residue is what 32 steps make of `XOROUT` (R35). -/
theorem crcUpdate_le32_eq_residue_iff (s v : Word) : crcUpdate s (le32 v) = 0xDEBB20E3#32 ↔ finalize s = v := by
  have hresidue : shiftSteps 32 Config.xorOut = 0xDEBB20E3#32 := by decide +kernel
  rw [crcUpdate_le32, ← hresidue, (shiftSteps_injective 32).eq_iff, finalize]
  exact (xor_eq_iff_right_eq s v Config.xorOut).trans eq_comm

/-- Settles O26: both clauses are the equivalence for the state that the message leaves. -/
theorem residueCheckIsEquivalent : Obligations.ResidueCheckIsEquivalent := by
  refine ⟨fun m => ?residue, fun domain stored => ?agree⟩
  case residue =>
    rw [crcUpdate_append]
    exact (crcUpdate_le32_eq_residue_iff _ _).mpr rfl
  case agree =>
    rw [verifyByResidue, verifyByCompare, crcUpdate_append, Bool.eq_iff_iff, beq_iff_eq, beq_iff_eq,
      crcUpdate_le32_eq_residue_iff, crc32]

end Sys2Proof.Machine
end

section
/-! Runs and the commands they accept (R28, R38, R75, R76): an effect depends on the registers alone, so busy cycles and
idle edges between the commands make no difference. -/

namespace Sys2Proof.Machine

theorem eq_withPort_of_regs {s s' : State} (h : s'.regs = s.regs) :
    s' = { s with stage := s'.stage, inputs := s'.inputs, tick := s'.tick } := by
  obtain ⟨S, D, E, g, l, k⟩ := s
  obtain ⟨S', D', E', g', l', k'⟩ := s'
  simp only [State.regs, Prod.mk.injEq] at h
  obtain ⟨rfl, rfl, rfl⟩ := h
  rfl

/-- No command reads or writes the handshake, the host's events or the cycle counter. -/
theorem exec_withPort {i : Instr} {s t : State} (g : Stage) (l : List HostEvent) (k : Nat) (h : exec i s = .next t) :
    exec i { s with stage := g, inputs := l, tick := k } = .next { t with stage := g, inputs := l, tick := k } := by
  cases i <;> (injection h with h; subst h; rfl)

theorem commandEffect_of_decode_illegal {c : Byte} {d : Word} {why : IllegalReason} (s : State)
    (h : decode c d = .illegal why) : commandEffect c d s = .next s.setErr := by
  rw [commandEffect, h]
  rfl

/-- An accepted word leaves the same registers in two states that agree on the registers (R63). -/
theorem commandEffect_congr_regs {c : Byte} {d : Word} {s s' u : State} (hregs : s'.regs = s.regs)
    (h : commandEffect c d s = .next u) : ∃ u', commandEffect c d s' = .next u' ∧ u'.regs = u.regs := by
  rw [eq_withPort_of_regs hregs]
  obtain ⟨i, hi, hexec⟩ | ⟨why, hwhy, rfl⟩ := commandEffect_cases h
  · exact ⟨_, (commandEffect_of_decode _ hi).trans (exec_withPort _ _ _ hexec), rfl⟩
  · exact ⟨_, commandEffect_of_decode_illegal _ hwhy, rfl⟩

theorem runCommands_congr_regs {cs : List (Byte × Word)} {s s' u : State} (hregs : s'.regs = s.regs)
    (h : runCommands cs s = .next u) : ∃ u', runCommands cs s' = .next u' ∧ u'.regs = u.regs := by
  induction cs generalizing s s' with
  | nil =>
    obtain rfl : s = u := by injection h
    exact ⟨s', runCommands_nil s', hregs⟩
  | cons cd rest ih =>
    obtain ⟨c, d⟩ := cd
    obtain ⟨v, hv⟩ := commandEffect_total c d s
    obtain ⟨v', hv', hvregs⟩ := commandEffect_congr_regs hregs hv
    rw [runCommands_cons rest hv] at h
    rw [runCommands_cons rest hv']
    exact ih hvregs h

/-- A step with no reset and no power gap leaves the registers that the commands it accepts leave: one command or
none. -/
theorem step_follows_acceptedHere {s t : State} (hi : s.initialised = true) (hk : s.nextEvent.keepsRunning = true)
    (h : step s = .next t) : ∃ u, runCommands s.acceptedHere s = .next u ∧ t.regs = u.regs := by
  obtain ⟨-, -, ⟨hnone, hregs⟩ | ⟨c, d, u, hone, hu, hregs⟩⟩ := step_next_of_keepsRunning hi hk h
  · exact ⟨s, by rw [hnone, runCommands_nil], hregs⟩
  · exact ⟨u, by rw [hone, runCommands_cons [] hu, runCommands_nil], hregs⟩

/-- Settles O46, by induction on the run: the first step's commands, then those of the run after it, on registers that
are the same. -/
theorem runsFollowAcceptedCommands : Obligations.RunsFollowAcceptedCommands := by
  intro n s t hi hn hrun
  induction n generalizing s with
  | zero =>
    obtain rfl : s = t := by injection hrun
    exact ⟨s, runCommands_nil s, rfl⟩
  | succ n ih =>
    obtain ⟨v, hstep, hrun'⟩ := run_succ_next hrun
    have hk := nextEvent_keepsRunning hn
    obtain ⟨hvi, hinputs, -⟩ := step_next_of_keepsRunning hi hk hstep
    obtain ⟨u, hu, hvu⟩ := step_follows_acceptedHere hi hk hstep
    obtain ⟨w, hw, htw⟩ := ih v hvi (undisturbed_of_inputs_tail hn hinputs) hrun'
    obtain ⟨w', hw', hww'⟩ := runCommands_congr_regs hvu.symm hw
    refine ⟨w', ?_, htw.trans hww'.symm⟩
    rw [acceptedBy_succ n hstep, runCommands_append _ hu, hw']

/-- Every step uses up one event of the host. -/
theorem stepWith_inputs {lat : BitVec 4 → Nat} {s t : State} (h : stepWith lat s = .next t) :
    t.inputs = s.inputs.tail := by
  obtain ⟨-, rfl⟩ | ⟨p, -, hedge⟩ := stepWith_next h
  · rfl
  obtain ⟨-, rfl⟩ | ⟨-, -, rfl⟩ | ⟨-, -, -, u, hu, rfl⟩ | ⟨-, -, -, rfl⟩ := edgeWith_next hedge
  · rfl
  · rfl
  · obtain ⟨-, hinputs, -⟩ := commandEffect_keeps_port hu
    exact congrArg List.tail hinputs
  · rfl

theorem runWith_succ_next {lat : BitVec 4 → Nat} {n : Nat} {s t : State} (h : runWith lat (n + 1) s = .next t) :
    ∃ u, stepWith lat s = .next u ∧ runWith lat n u = .next t := by
  rw [runWith] at h
  split at h
  · exact ⟨_, ‹_›, h⟩
  · cases h
  · cases h

theorem runWith_inputs {lat : BitVec 4 → Nat} {n : Nat} {s t : State} (h : runWith lat n s = .next t) :
    t.inputs = s.inputs.drop n := by
  induction n generalizing s with
  | zero =>
    obtain rfl : s = t := by injection h
    rfl
  | succ n ih =>
    obtain ⟨u, hu, hrun⟩ := runWith_succ_next h
    rw [ih hrun, stepWith_inputs hu, List.drop_tail]

/-- A run in two parts. -/
theorem runWith_add {lat : BitVec 4 → Nat} {n : Nat} {s t : State} (m : Nat) (h : runWith lat n s = .next t) :
    runWith lat (n + m) s = runWith lat m t := by
  induction n generalizing s with
  | zero =>
    obtain rfl : s = t := by injection h
    rw [Nat.zero_add]
  | succ n ih =>
    obtain ⟨u, hu, hrun⟩ := runWith_succ_next h
    rw [Nat.succ_add, runWith_succ _ hu, ih hrun]

theorem acceptedBy_add {n : Nat} {s t : State} (m : Nat) (h : run n s = .next t) :
    acceptedBy (n + m) s = acceptedBy n s ++ acceptedBy m t := by
  induction n generalizing s with
  | zero =>
    obtain rfl : s = t := by injection h
    rw [Nat.zero_add, acceptedBy, List.nil_append]
  | succ n ih =>
    obtain ⟨u, hu, hrun⟩ := run_succ_next h
    rw [Nat.succ_add, acceptedBy_succ _ hu, acceptedBy_succ _ hu, ih hrun, List.append_assoc]

/-- The acceptance by a ready block, with the events the host has left. -/
theorem stepWith_of_ready (lat : BitVec 4 → Nat) {s : State} {c : Byte} {d : Word} {rest : List HostEvent}
    (hready : s.stage = .running 0) (hin : s.inputs = .edge (PortIn.present c d) :: rest) :
    ∃ u t, commandEffect c d s = .next u ∧ stepWith lat s = .next t ∧ t.regs = u.regs ∧ t.inputs = rest ∧
      t.stage = .running (lat (opField c)) := by
  obtain ⟨u, hu⟩ := commandEffect_total c d s
  have hstep := stepWith_accept lat hin (initialised_of_running hready) (accepts_present_of_running_zero c d hready) hu
  exact ⟨u, _, hu, hstep, rfl, by rw [stepWith_inputs hstep, hin, List.tail_cons], rfl⟩

/-- Settles O38: the busy cycles go by with nothing accepted and no register changed, and the edge after them finds the
command still presented to a ready block. -/
theorem heldCommandAcceptedOnce : Obligations.HeldCommandAcceptedOnce := by
  intro busy s c d rest hbusy hin
  have hundisturbed : s.undisturbed busy = true := by
    rw [State.undisturbed, hin, List.take_append_of_le_length (by simp), List.take_replicate,
      Nat.min_eq_left (Nat.le_succ busy), List.all_eq_true]
    exact fun e he => List.eq_of_mem_replicate he ▸ rfl
  obtain ⟨hnone, v, hrun, hvregs, hvready⟩ := run_of_busy ((Nat.zero_add busy).symm ▸ hbusy) hundisturbed
  have hvin : v.inputs = .edge (PortIn.present c d) :: rest := by
    rw [runWith_inputs hrun, hin, List.replicate_succ', List.append_assoc]
    exact List.drop_left' List.length_replicate
  obtain ⟨u, t, hu, hstep, htregs, htin, htstage⟩ := stepWith_of_ready Config.cmdLatency hvready hvin
  obtain ⟨u', hu', hregs'⟩ := commandEffect_congr_regs hvregs.symm hu
  have hone : acceptedBy 1 v = [(c, d)] := by
    rw [acceptedBy_succ 0 hstep, acceptedHere_of_ready hvready hvin, acceptedBy, List.append_nil]
  refine ⟨hnone, by rw [acceptedBy_add 1 hrun, hnone, hone, List.nil_append], t, u', ?run, hu',
    htregs.trans hregs'.symm, htin, htstage⟩
  case run => exact (runWith_add 1 hrun).trans (runWith_succ 0 hstep)

theorem idles_iff (e : HostEvent) : e.idles = true ↔ ∃ p, e = .edge p ∧ p.rst = false ∧ p.cmdValid = false := by
  cases e with
  | edge p => simp [HostEvent.idles]
  | powerGap => simp [HostEvent.idles]

/-- Past the end of its list the host idles too (assumption log 2). -/
theorem nextEvent_idles {n : Nat} {s : State} (h : (s.inputs.take (n + 1)).all HostEvent.idles = true) :
    s.nextEvent.idles = true ∧ (s.inputs.tail.take n).all HostEvent.idles = true := by
  cases hin : s.inputs with
  | nil => simp [State.nextEvent, hin, HostEvent.idles, PortIn.idle]
  | cons e rest =>
    rw [hin, List.take_succ_cons, List.all_cons, Bool.and_eq_true] at h
    rwa [nextEvent_cons s e rest hin, List.tail_cons]

/-- Idle edges change no register; they use up the busy cycles and leave a ready block ready (R39, R75). -/
theorem runWith_of_idle (lat : BitVec 4 → Nat) {n busy : Nat} {s : State} (hbusy : s.stage = .running busy)
    (hidle : (s.inputs.take n).all HostEvent.idles = true) :
    ∃ t, runWith lat n s = .next t ∧ t.regs = s.regs ∧ t.stage = .running (busy - n) := by
  induction n generalizing s busy with
  | zero => exact ⟨s, rfl, rfl, hbusy⟩
  | succ n ih =>
    obtain ⟨hnext, hrest⟩ := nextEvent_idles hidle
    obtain ⟨p, hp, hrst, hvalid⟩ := (idles_iff _).mp hnext
    have hrefuses : s.accepts p = false := by simp [State.accepts, hvalid]
    have hstep := stepWith_quiet_of_nextEvent lat hp (initialised_of_running hbusy) hrst hrefuses
    have hfewer : s.quietEdge.stage = .running (busy - 1) := by rw [quietEdge_stage, hbusy, Stage.tickDown]
    obtain ⟨t, hrun, hregs, hstage⟩ := ih hfewer hrest
    refine ⟨t, (runWith_succ n hstep).trans hrun, hregs, ?_⟩
    rw [hstage, Nat.sub_sub, Nat.add_comm]

/-- Settles O40: idle edges keep the command's result in the registers, and from the first ready cycle on the ports show
them. -/
theorem resultVisibleWhenReady : Obligations.ResultVisibleWhenReady := by
  intro n s c d rest hready hin hlat hidle
  obtain ⟨u, v, hu, hstep, hvregs, hvin, hvstage⟩ := stepWith_of_ready Config.cmdLatency hready hin
  rw [← hvin] at hidle
  obtain ⟨t, hrun, htregs, htstage⟩ := runWith_of_idle Config.cmdLatency hvstage hidle
  rw [Nat.sub_eq_zero_of_le hlat] at htstage
  have htready : t.cmdReady = true := cmdReady_running t 0 htstage
  have hshown := portsGuaranteed_of_ready (initialised_of_running htstage) htready
  have hregs : t.regs = u.regs := htregs.trans hvregs
  refine ⟨t, u, (run_succ n hstep).trans hrun, hu, htready, ?dout, ?err⟩
  case dout => rw [doutPort_of_guaranteed hshown]; exact congrArg (·.2.1) hregs
  case err => rw [errPort_of_guaranteed hshown]; exact regErr_eq_of_regs hregs

/-- A command presented to a ready block and its latency waited out: the command's effect, and a ready block again. -/
theorem runWith_driveCommand (lat : BitVec 4 → Nat) {c : Byte} {d : Word} {s : State} {rest : List HostEvent}
    (hready : s.stage = .running 0) (hin : s.inputs = driveCommand lat c d ++ rest) :
    ∃ u t, commandEffect c d s = .next u ∧ runWith lat (driveCommand lat c d).length s = .next t ∧
      t.regs = u.regs ∧ t.stage = .running 0 ∧ t.inputs = rest := by
  obtain ⟨u, v, hu, hstep, hvregs, hvin, hvstage⟩ := stepWith_of_ready lat hready hin
  have hidle : (v.inputs.take (lat (opField c))).all HostEvent.idles = true := by
    have hwaits : v.inputs = List.replicate (lat (opField c)) (.edge PortIn.idle) ++ rest := hvin
    rw [hwaits, List.take_left' List.length_replicate, List.all_eq_true]
    exact fun e he => List.eq_of_mem_replicate he ▸ rfl
  obtain ⟨t, hrun, htregs, htstage⟩ := runWith_of_idle lat hvstage hidle
  have hwhole : runWith lat (driveCommand lat c d).length s = .next t := by
    rw [driveCommand, List.length_cons, List.length_replicate, runWith_succ _ hstep, hrun]
  refine ⟨u, t, hu, hwhole, htregs.trans hvregs, ?_, ?_⟩
  · rw [htstage, Nat.sub_self]
  · rw [runWith_inputs hwhole, hin, List.drop_left]

/-- Settles O41, by induction on the commands: each is issued to a ready block and leaves one. -/
theorem issuedCommandsRunForEveryLatency : Obligations.IssuedCommandsRunForEveryLatency := by
  intro lat cs
  induction cs with
  | nil => exact fun s rest hready hin => ⟨s, s, rfl, runCommands_nil s, rfl, hready, hin⟩
  | cons cd cs ih =>
    obtain ⟨c, d⟩ := cd
    intro s rest hready hin
    rw [driveCommands, List.append_assoc] at hin
    obtain ⟨u, v, hu, hrunv, hvregs, hvready, hvin⟩ := runWith_driveCommand lat hready hin
    obtain ⟨t, w, hrun, hw, htregs, htready, htin⟩ := ih v rest hvready hvin
    obtain ⟨w', hw', hregs'⟩ := runCommands_congr_regs hvregs.symm hw
    refine ⟨t, w', ?_, (runCommands_cons cs hu).trans hw', htregs.trans hregs'.symm, htready, htin⟩
    rw [driveCommands, List.length_append, runWith_add _ hrunv, hrun]

end Sys2Proof.Machine
end

section
/-! The assembler (R47) and its pseudo-instructions (R48): what CRCBYTES feeds, and that every line but `.cmd` writes
well-formed commands. -/

namespace Sys2Proof.Machine

theorem byteOf_zero_packBytes_cons (b : Byte) (m : List Byte) : byteOf 0 (packBytes (b :: m)) = b := by
  refine BitVec.eq_of_getLsbD_eq fun j hj => ?_
  have hj32 : j < 32 := by omega
  simp [byteOf, hj, hj32]

theorem byteOf_succ_packBytes_cons (b : Byte) (m : List Byte) {k : Nat} (hk : k < 3) :
    byteOf (k + 1) (packBytes (b :: m)) = byteOf k (packBytes m) := by
  refine BitVec.eq_of_getLsbD_eq fun j hj => ?_
  have hplace : 8 * (k + 1) + j - 8 = 8 * k + j := by omega
  have hin : 8 * (k + 1) + j < 32 := by omega
  have habove : 8 ≤ 8 * (k + 1) + j := by omega
  have hb : b.getLsbD (8 * (k + 1) + j) = false := BitVec.getLsbD_of_ge b _ habove
  simp only [byteOf, packBytes_cons, BitVec.getLsbD_extractLsb', BitVec.getLsbD_or, BitVec.getLsbD_setWidth, hb,
    BitVec.getLsbD_shiftLeft, hin, habove.not_gt, hplace, decide_true, decide_false, Bool.and_false, Bool.false_or,
    Bool.not_false, Bool.true_and]

/-- At most four bytes fit into an operand word, and there they stand one above the other (R23). -/
theorem map_byteOf_packBytes {m : List Byte} (h : m.length ≤ 4) :
    (List.range m.length).map (byteOf · (packBytes m)) = m := by
  induction m with
  | nil => rfl
  | cons b m ih =>
    have hm : m.length ≤ 3 := Nat.le_of_succ_le_succ h
    have htail : (List.range m.length).map (fun k => byteOf (k + 1) (packBytes (b :: m))) = m :=
      calc (List.range m.length).map (fun k => byteOf (k + 1) (packBytes (b :: m)))
          = (List.range m.length).map (byteOf · (packBytes m)) :=
            List.map_congr_left fun k hk =>
              byteOf_succ_packBytes_cons b m ((List.mem_range.mp hk).trans_le hm)
        _ = m := ih (hm.trans (by decide))
    rw [List.length_cons, List.range_succ_eq_map, List.map_cons, byteOf_zero_packBytes_cons, List.map_map]
    exact congrArg (b :: ·) htail

theorem packBytes_toNat_lt (m : List Byte) : (packBytes m).toNat < 2 ^ (8 * m.length) := by
  induction m with
  | nil => decide
  | cons b m ih =>
    have hwider : 2 ^ (8 * (b :: m).length) = 2 ^ (8 * m.length) * 2 ^ 8 := by
      rw [← Nat.pow_add, List.length_cons, Nat.mul_succ]
    have hb : (b.setWidth 32).toNat < 2 ^ (8 * (b :: m).length) := by
      rw [BitVec.toNat_setWidth_of_le (by decide)]
      exact b.isLt.trans_le (Nat.pow_le_pow_right (by decide) (Nat.le_mul_of_pos_right 8 (Nat.succ_pos _)))
    have hm : (packBytes m <<< 8).toNat < 2 ^ (8 * (b :: m).length) := by
      rw [BitVec.toNat_shiftLeft, Nat.shiftLeft_eq, hwider]
      exact (Nat.mod_le _ _).trans_lt (Nat.mul_lt_mul_of_pos_right ih (by decide))
    rw [packBytes_cons, BitVec.toNat_or]
    exact Nat.or_lt_two_pow hb hm

theorem updateBytes_packBytes {n : BitVec 2} {bs : List Byte} (h : bs.length = n.toNat + 1) :
    updateBytes n (packBytes bs) = bs := by
  have hn : n.toNat < 4 := n.isLt
  rw [updateBytes, ← h, map_byteOf_packBytes (h ▸ hn)]

theorem wf_update_packBytes {n : BitVec 2} {bs : List Byte} (h : bs.length = n.toNat + 1) :
    (Instr.update n (packBytes bs)).wf = true := by
  rw [wf_update_iff, ← h]
  exact packBytes_toNat_lt bs

/-- Every command of CRCBYTES is an UPDATE of a piece of the message, with as many bytes as its count says (R48). -/
theorem exists_of_mem_crcBytesInstrs {m : List Byte} {i : Instr} (h : i ∈ crcBytesInstrs m) :
    ∃ n bs, i = .update n (packBytes bs) ∧ bs.length = n.toNat + 1 := by
  induction m using crcBytesInstrs.induct with
  | case1 => cases h
  | case2 b0 => exact ⟨_, _, List.mem_singleton.mp h, rfl⟩
  | case3 b0 b1 => exact ⟨_, _, List.mem_singleton.mp h, rfl⟩
  | case4 b0 b1 b2 => exact ⟨_, _, List.mem_singleton.mp h, rfl⟩
  | case5 b0 b1 b2 b3 rest ih =>
    obtain rfl | hrest := List.mem_cons.mp h
    · exact ⟨_, _, rfl, rfl⟩
    · exact ih hrest

theorem wf_of_mem_crcBytesInstrs {m : List Byte} {i : Instr} (h : i ∈ crcBytesInstrs m) : i.wf = true := by
  obtain ⟨n, bs, rfl, hlen⟩ := exists_of_mem_crcBytesInstrs h
  exact wf_update_packBytes hlen

theorem updateWord_ne_init_load (n : BitVec 2) :
    (0x30#8 ||| n.setWidth 8) ≠ 0x10#8 ∧ (0x30#8 ||| n.setWidth 8) ≠ 0x20#8 := by
  revert n; decide

theorem keepsComputation_crcBytesInstrs (m : List Byte) :
    keepsComputation ((crcBytesInstrs m).map encode) = true := by
  rw [keepsComputation, List.all_map, List.all_eq_true]
  intro i hi
  obtain ⟨n, bs, rfl, -⟩ := exists_of_mem_crcBytesInstrs hi
  simp [encode, updateWord_ne_init_load n]

theorem fedMessage_encode_update_cons {n : BitVec 2} {bs : List Byte} (is : List Instr) (h : bs.length = n.toNat + 1) :
    fedMessage ((Instr.update n (packBytes bs) :: is).map encode) = bs ++ fedMessage (is.map encode) := by
  rw [List.map_cons, encode, fedMessage, fedBytes_updateWord, updateBytes_packBytes h]

theorem fedMessage_crcBytesInstrs (m : List Byte) : fedMessage ((crcBytesInstrs m).map encode) = m := by
  induction m using crcBytesInstrs.induct with
  | case1 => rfl
  | case2 b0 => exact fedMessage_encode_update_cons [] rfl
  | case3 b0 b1 => exact fedMessage_encode_update_cons [] rfl
  | case4 b0 b1 b2 => exact fedMessage_encode_update_cons [] rfl
  | case5 b0 b1 b2 b3 rest ih =>
    have hpiece := fedMessage_encode_update_cons (n := 3#2) (bs := [b0, b1, b2, b3]) (crcBytesInstrs rest) rfl
    rw [ih] at hpiece
    exact hpiece

theorem length_crcBytesInstrs (m : List Byte) : (crcBytesInstrs m).length = (m.length + 3) / 4 := by
  induction m using crcBytesInstrs.induct with
  | case1 => rfl
  | case2 b0 => simp [crcBytesInstrs]
  | case3 b0 b1 => simp [crcBytesInstrs]
  | case4 b0 b1 b2 => simp [crcBytesInstrs]
  | case5 b0 b1 b2 b3 rest ih =>
    simp only [crcBytesInstrs, List.length_cons, ih]
    omega

/-- Settles O50: by the recursion of CRCBYTES the pieces join up to the message, and each is well-formed on its own. -/
theorem crcBytesFeedsItsMessage : Obligations.CrcBytesFeedsItsMessage := fun m =>
  ⟨fedMessage_crcBytesInstrs m, length_crcBytesInstrs m, keepsComputation_crcBytesInstrs m,
    fun _ => wf_of_mem_crcBytesInstrs⟩

theorem wf_of_mem_crc32Instrs {m : List Byte} {i : Instr} (h : i ∈ crc32Instrs m) : i.wf = true := by
  rw [crc32Instrs, List.mem_cons, List.mem_append, List.mem_singleton] at h
  obtain rfl | hfeed | rfl := h
  · rfl
  · exact wf_of_mem_crcBytesInstrs hfeed
  · rfl

/-- The encoder writes only legal words, since the decoder reads a command from each (R43, R47). -/
theorem legal_encode {i : Instr} (h : i.wf = true) : legal (encode i).1 = true :=
  legal_of_decode (decodeEncodeRoundTrip i h)

theorem exists_of_map_eq_ok {ε α β : Type} {f : α → β} {x : Except ε α} {b : β} (h : x.map f = .ok b) :
    ∃ a, x = .ok a ∧ f a = b := by
  cases x with
  | error e => cases h
  | ok a =>
    injection h with h
    exact ⟨a, rfl, h⟩

theorem eq_of_assembleBare {i j : Instr} {size imm : Option Nat} (h : assembleBare i size imm = .ok j) : j = i := by
  unfold assembleBare at h
  split at h
  · cases h
  · cases h
  · injection h with h
    exact h.symm

theorem exists_of_assembleOperand {bits : Nat} {f : Nat → Instr} {j : Instr} {size imm : Option Nat}
    (h : assembleOperand bits f size imm = .ok j) : ∃ v, j = f v := by
  unfold assembleOperand at h
  split at h
  · cases h
  · cases h
  · split at h
    · injection h with h
      exact ⟨_, h.symm⟩
    · cases h

theorem exists_of_assembleUpdate {j : Instr} {size imm : Option Nat} (h : assembleUpdate size imm = .ok j) :
    ∃ k v, 1 ≤ k ∧ k ≤ 4 ∧ v < 2 ^ (8 * k) ∧ j = .update (BitVec.ofNat 2 (k - 1)) (BitVec.ofNat 32 v) := by
  unfold assembleUpdate at h
  split at h
  · cases h
  split at h
  · cases h
  split at h
  · cases h
  split at h
  · injection h with h
    exact ⟨_, _, by omega, by omega, ‹_›, h.symm⟩
  · cases h

theorem wf_of_assembleCommand {m : Mnemonic} {size imm : Option Nat} {i : Instr}
    (h : assembleCommand m size imm = .ok i) : i.wf = true := by
  cases m with
  | nop => rw [eq_of_assembleBare h]; rfl
  | init => rw [eq_of_assembleBare h]; rfl
  | load =>
    obtain ⟨v, rfl⟩ := exists_of_assembleOperand h
    rfl
  | update =>
    obtain ⟨k, v, hk, hk4, hv, rfl⟩ := exists_of_assembleUpdate h
    have hcount : (BitVec.ofNat 2 (k - 1)).toNat + 1 = k := by
      rw [BitVec.toNat_ofNat]
      omega
    rw [wf_update_iff, hcount, BitVec.toNat_ofNat]
    exact (Nat.mod_le _ _).trans_lt hv
  | rdstate => rw [eq_of_assembleBare h]; rfl
  | final => rw [eq_of_assembleBare h]; rfl
  | rdtab =>
    obtain ⟨v, rfl⟩ := exists_of_assembleOperand h
    rfl

/-- Every line but `.cmd` assembles to the transactions of well-formed commands (R47, R48). -/
theorem exists_wf_of_assemble {line : AsmLine} {cs : List (Byte × Word)} (hraw : ∀ c d, line ≠ .raw c d)
    (h : assemble line = .ok cs) : ∃ is : List Instr, is.map encode = cs ∧ ∀ i ∈ is, i.wf = true := by
  cases line with
  | command m size imm =>
    obtain ⟨i, hi, rfl⟩ := exists_of_map_eq_ok h
    exact ⟨[i], rfl, fun j hj => List.mem_singleton.mp hj ▸ wf_of_assembleCommand hi⟩
  | raw c d => exact absurd rfl (hraw c d)
  | crcBytes ms =>
    obtain ⟨m, -, rfl⟩ := exists_of_map_eq_ok h
    exact ⟨crcBytesInstrs m, rfl, fun _ => wf_of_mem_crcBytesInstrs⟩
  | crcStr text =>
    obtain ⟨m, -, rfl⟩ := exists_of_map_eq_ok h
    exact ⟨crcBytesInstrs m, rfl, fun _ => wf_of_mem_crcBytesInstrs⟩
  | crc32 ms =>
    obtain ⟨m, -, rfl⟩ := exists_of_map_eq_ok h
    exact ⟨crc32Instrs m, rfl, fun _ => wf_of_mem_crc32Instrs⟩
  | resume v =>
    obtain ⟨i, hi, rfl⟩ := exists_of_map_eq_ok h
    exact ⟨[i], rfl, fun j hj => List.mem_singleton.mp hj ▸ wf_of_assembleCommand hi⟩

/-- The line of a command: its mnemonic, UPDATE's size, and its operand as a number (R47). -/
theorem exists_line_of_wf {i : Instr} (h : i.wf = true) : ∃ m size imm, assembleCommand m size imm = .ok i := by
  cases i with
  | nop => exact ⟨.nop, none, none, rfl⟩
  | init => exact ⟨.init, none, none, rfl⟩
  | load v =>
    refine ⟨.load, none, some v.toNat, ?_⟩
    rw [assembleCommand, assembleOperand, if_pos v.isLt, BitVec.ofNat_toNat, BitVec.setWidth_eq]
  | update n v =>
    refine ⟨.update, some (n.toNat + 1), some v.toNat, ?_⟩
    have hsize : ¬ (n.toNat + 1 = 0 ∨ 4 < n.toNat + 1) := by omega
    rw [assembleCommand, assembleUpdate, if_neg hsize, if_pos ((wf_update_iff n v).mp h), Nat.add_sub_cancel,
      BitVec.ofNat_toNat, BitVec.ofNat_toNat, BitVec.setWidth_eq, BitVec.setWidth_eq]
  | rdstate => exact ⟨.rdstate, none, none, rfl⟩
  | final => exact ⟨.final, none, none, rfl⟩
  | rdtab idx =>
    refine ⟨.rdtab, none, some idx.toNat, ?_⟩
    rw [assembleCommand, assembleOperand, if_pos idx.isLt, BitVec.ofNat_toNat, BitVec.setWidth_eq]

/-- Settles O49: a command's line is written from its fields, and what any other line assembles to is the encoding of
well-formed commands, whose words the decoder reads. -/
theorem assemblerWritesLegalCommands : Obligations.AssemblerWritesLegalCommands := by
  refine ⟨fun i hwf => ?line, fun line cs hraw h p hp => ?words⟩
  case line =>
    obtain ⟨m, size, imm, hi⟩ := exists_line_of_wf hwf
    exact ⟨m, size, imm, by rw [assemble, hi]; rfl⟩
  case words =>
    obtain ⟨is, rfl, hwf⟩ := exists_wf_of_assemble hraw h
    obtain ⟨i, hi, rfl⟩ := List.mem_map.mp hp
    exact ⟨i, hwf i hi, rfl, legal_encode (hwf i hi)⟩

end Sys2Proof.Machine
end

section
/-! The host's byte stream (R30 to R34, R80): the fields it feeds, the lengths of what it writes, and the sequences by
which it computes a CRC, run on the registers and issued at the port. -/

namespace Sys2Proof.Machine

/-- A 16-bit field presented in an operand word is fed by UPDATE.2 (R32). -/
theorem updateBytes_setWidth_eq_le16 (v : BitVec 16) : updateBytes 1#2 (v.setWidth 32) = le16 v := by
  have hlow : byteOf 0 (v.setWidth 32) = v.extractLsb' 0 8 := BitVec.extractLsb'_setWidth_of_le (by decide)
  have hhigh : byteOf 1 (v.setWidth 32) = v.extractLsb' 8 8 := BitVec.extractLsb'_setWidth_of_le (by decide)
  rw [le16, ← hlow, ← hhigh]
  rfl

/-- Settles O51: UPDATE folds the bytes it takes from its operand, and those are the bytes of the field. -/
theorem fieldsAreFedLittleEndian : Obligations.FieldsAreFedLittleEndian := by
  refine ⟨fun v s => ?u32, fun v s => ?u16, fun s => ?marker⟩
  case u32 =>
    rw [exec_update, updateBytes_eq_take_le32]
    rfl
  case u16 =>
    rw [exec_update, updateBytes_setWidth_eq_le16]
    rfl
  case marker =>
    have hufd : updateBytes 2#2 0x00444655#32 = [0x55#8, 0x46#8, 0x44#8] := by decide
    rw [exec_update, hufd]
    rfl

@[simp] theorem length_le32 (v : Word) : (le32 v).length = 4 := rfl

@[simp] theorem length_le16 (v : BitVec 16) : (le16 v).length = 2 := rfl

theorem length_targetBytes (t : DfuTarget) : (targetBytes t).length = t.payload.length + 8 := by
  simp only [targetBytes, List.length_append, length_le32]
  omega

theorem length_nameField (name : List Byte) : (nameField name).length = 255 := by
  rw [nameField, List.length_take, List.length_append, List.length_replicate]
  omega

theorem length_imagePrefix (img : DfuImage) : (imagePrefix img).length = 274 := by
  simp [imagePrefix, length_nameField]

theorem length_imageBytes (img : DfuImage) : (imageBytes img).length = 274 + totalElementSize img := by
  simp only [imageBytes, List.length_append, length_imagePrefix, List.length_flatMap, length_targetBytes,
    totalElementSize]

theorem length_filePrefix (f : DfuFile) : (filePrefix f).length = 11 := by
  simp [filePrefix]

theorem length_fileSuffix12 (f : DfuFile) : (fileSuffix12 f).length = 12 := by
  simp [fileSuffix12]

theorem length_crcDomain (f : DfuFile) : (crcDomain f).length = fileSizeField f + 12 := by
  simp only [crcDomain, List.length_append, length_filePrefix, length_fileSuffix12, List.length_flatMap,
    length_imageBytes, fileSizeField]

/-- Settles O52: the lengths of the records add up, and the checksum is four bytes more. -/
theorem crcDomainLength : Obligations.CrcDomainLength := by
  refine fun f => ⟨rfl, length_crcDomain f, ?file⟩
  case file => rw [fileBytes, List.length_append, length_crcDomain, length_le32]

/-- Settles O27: FINAL leaves `S`, so the second message is folded on from the first, as the concatenation is. -/
theorem forgottenInitConcatenates : Obligations.ForgottenInitConcatenates := by
  intro cs₁ cs₂ d₀ d₁ d₂ s h₁ h₂
  obtain ⟨t, htS, hrun⟩ := runCommands_start_feed (decode_initWord d₀) (exec_init s) h₁
  obtain ⟨u, hu, huS⟩ := runCommands_folds_fedMessage (t.setDout (finalize t.regS)) h₂
  rw [State.setDout_regS, htS] at huS
  refine ⟨u.setDout (finalize u.regS), ?run, ?dout⟩
  case run =>
    rw [hrun, runCommands_cons_of_decode _ (decode_finalWord d₁) (exec_final t), runCommands_append _ hu,
      runCommands_final]
  case dout => rw [State.setDout_regDout, huS, ← crcUpdate_append, crc32]

/-- INIT, commands that feed a message, FINAL: the message's CRC, with `ERR` as it was (R48, R61, R62). -/
theorem runCommands_crc {is : List Instr} {m : List Byte} (s : State)
    (hkeeps : keepsComputation (is.map encode) = true) (hfed : fedMessage (is.map encode) = m)
    (hwf : ∀ i ∈ is, i.wf = true) :
    ∃ t, runCommands ((Instr.init :: (is ++ [.final])).map encode) s = .next t ∧ t.regDout = crc32 m ∧
      t.regErr = s.regErr := by
  obtain ⟨⟨t, ht, hdout, -⟩, -⟩ := freestandingComputation m (is.map encode) 0#32 0#32 s hkeeps hfed
  have hrun : runCommands ((Instr.init :: (is ++ [.final])).map encode) s = .next t := by
    rw [List.map_cons, List.map_append]
    exact ht
  refine ⟨t, hrun, hdout, runCommands_keeps_err (fun p hp => ?_) hrun⟩
  obtain ⟨i, hi, rfl⟩ := List.mem_map.mp hp
  rw [List.mem_cons, List.mem_append, List.mem_singleton] at hi
  obtain rfl | hfeed | rfl := hi
  · exact legal_encode rfl
  · exact legal_encode (hwf i hfeed)
  · exact legal_encode rfl

theorem runCommands_crc32Instrs (m : List Byte) (s : State) :
    ∃ t, runCommands ((crc32Instrs m).map encode) s = .next t ∧ t.regDout = crc32 m ∧ t.regErr = s.regErr :=
  runCommands_crc s (keepsComputation_crcBytesInstrs m) (fedMessage_crcBytesInstrs m) fun _ => wf_of_mem_crcBytesInstrs

/-- Settles O47: the registers are those of the commands one after another (O41), and the ready port shows them. -/
theorem issuedMessageGivesItsCrc : Obligations.IssuedMessageGivesItsCrc := by
  intro m s rest hready hin
  obtain ⟨t, u, hrun, hu, hregs, htready, htin⟩ :=
    issuedCommandsRunForEveryLatency Config.cmdLatency _ s rest hready hin
  obtain ⟨v, hv, hdout, herr⟩ := runCommands_crc32Instrs m s
  obtain rfl : u = v := by injection hu.symm.trans hv
  have hshown := portsGuaranteed_of_ready (initialised_of_running htready) (cmdReady_running t 0 htready)
  have htdout : t.regDout = u.regDout := congrArg (·.2.1) hregs
  refine ⟨t, hrun, cmdReady_running t 0 htready, ?dout, ?err, htin⟩
  case dout =>
    rw [doutPort_of_guaranteed hshown, htdout, hdout]
    rfl
  case err => rw [errPort_of_guaranteed hshown, regErr_eq_of_regs hregs, herr]

theorem keepsComputation_append (cs cs' : List (Byte × Word)) :
    keepsComputation (cs ++ cs') = (keepsComputation cs && keepsComputation cs') := List.all_append

theorem fedMessage_append (cs cs' : List (Byte × Word)) :
    fedMessage (cs ++ cs') = fedMessage cs ++ fedMessage cs' := by
  induction cs with
  | nil => rfl
  | cons cd cs ih => rw [List.cons_append, fedMessage, fedMessage, ih, List.append_assoc]

/-- Feeding a serialization write by write feeds its bytes, wherever the writes cut it (R34, R56). -/
theorem fedMessage_writes (writes : List (List Byte)) :
    fedMessage ((writes.flatMap crcBytesInstrs).map encode) = writes.flatten := by
  induction writes with
  | nil => rfl
  | cons m writes ih =>
    rw [List.flatMap_cons, List.map_append, fedMessage_append, fedMessage_crcBytesInstrs, ih, List.flatten_cons]

theorem keepsComputation_writes (writes : List (List Byte)) :
    keepsComputation ((writes.flatMap crcBytesInstrs).map encode) = true := by
  induction writes with
  | nil => rfl
  | cons m writes ih =>
    rw [List.flatMap_cons, List.map_append, keepsComputation_append, keepsComputation_crcBytesInstrs, ih, Bool.and_self]

theorem runCommands_writePath (writes : List (List Byte)) (s : State) :
    ∃ t, runCommands ((writePathInstrs writes).map encode) s = .next t ∧ t.regDout = crc32 writes.flatten := by
  have hwf : ∀ i ∈ writes.flatMap crcBytesInstrs, i.wf = true := fun i hi => by
    obtain ⟨m, -, him⟩ := List.mem_flatMap.mp hi
    exact wf_of_mem_crcBytesInstrs him
  obtain ⟨t, ht, hdout, -⟩ := runCommands_crc s (keepsComputation_writes writes) (fedMessage_writes writes) hwf
  exact ⟨t, ht, hdout⟩

/-- Each `AddImage` starts from INIT, so only the last one decides what is stored (R34). -/
theorem runCommands_addImages (f : DfuFile) {added : List DfuImage} (s : State) (h : added ≠ []) :
    ∃ t, runCommands ((addImagesInstrs f added).map encode) s = .next t ∧
      t.regDout = storedChecksum { f with images := f.images ++ added } := by
  induction added generalizing f s with
  | nil => exact absurd rfl h
  | cons img rest ih =>
    obtain ⟨t, ht, htdout, -⟩ := runCommands_crc32Instrs (crcDomain { f with images := f.images ++ [img] }) s
    have hrun : runCommands ((addImagesInstrs f (img :: rest)).map encode) s =
        runCommands ((addImagesInstrs { f with images := f.images ++ [img] } rest).map encode) t := by
      rw [addImagesInstrs, List.map_append, runCommands_append _ ht]
    rw [hrun]
    cases hrest : rest with
    | nil => exact ⟨t, runCommands_nil t, htdout⟩
    | cons img' rest' =>
      obtain ⟨u, hu, hudout⟩ := ih { f with images := f.images ++ [img] } t (by simp [hrest])
      rw [List.append_assoc, List.singleton_append] at hudout
      exact ⟨u, hrest ▸ hu, hrest ▸ hudout⟩

/-- Settles O53: both host sequences end with INIT, a feeding of all the bytes they cover, and FINAL. -/
theorem hostPathsGiveTheChecksum : Obligations.HostPathsGiveTheChecksum :=
  ⟨runCommands_writePath, fun f _ s h => runCommands_addImages f s h⟩

end Sys2Proof.Machine
end
